-- ==== Sys2Proof/Word.lean ====
section
/-! DEFINITION. The byte of the protocol: opcodes, payload bytes and the registers of `ROM` and `SP`. -/

namespace Sys2Proof

/-- An 8-bit value, bit 0 least significant (00_scope.md R6). -/
abbrev Byte := BitVec 8

end Sys2Proof
end

