-- ==== Sys2Proof/Config.lean ====
section
/-! DEFINITION. What is fixed for one block: the parameter record of 00_scope.md R5 with its constraints, the
hard-wired capability constants, and the free values (constants without a body, so that no proof can see a value). -/

namespace Sys2Proof

/-- FREE VALUE. `EPS_US`, the tolerance of a microsecond wait, where the record leaves it open (00_scope.md R5, D24). -/
opaque Config.epsUs : Nat

/-- The implementation parameters of 00_scope.md R5, one field per row of its table; the default of each field is the
table's *value* column. They are "protocol constants, not tunable": no step of the machine writes them. Widths in
microseconds unless the docstring says otherwise. The three tail times are decisions D4, D5, D6; `cfgReserved` is PRESUMED
(general knowledge, G1). -/
structure Params where
  /-- `T_RSTL`: low time of the reset pulse. -/
  tRstl : Nat := 550
  /-- `T_PDS`: release to presence sample. -/
  tPds : Nat := 70
  /-- `T_RSTH_REST`: presence sample to confirmation sample (D4). -/
  tRsthRest : Nat := 410
  /-- `T_W0L`: low time of a write-zero slot. -/
  tW0l : Nat := 65
  /-- `T_REC`: recovery after a write-zero slot. -/
  tRec : Nat := 3
  /-- `T_W1L`: low time of a write-one slot. -/
  tW1l : Nat := 3
  /-- `T_W1H`: high part of a write-one slot (D5). -/
  tW1h : Nat := 65
  /-- `T_RDL`: low time of a read slot. Its constraint in R5 is "brief", with no number. -/
  tRdl : Nat := 3
  /-- `T_RDS`: release to sample in a read slot. -/
  tRds : Nat := 10
  /-- `T_RD_REST`: sample to the end of a read slot (D6). -/
  tRdRest : Nat := 55
  /-- `T_CONV_BASE_MS`: conversion wait at 12 bits, in milliseconds. -/
  tConvBaseMs : Nat := 800
  /-- `T_COPY_MS`: copy wait on parasite power, in milliseconds. -/
  tCopyMs : Nat := 12
  /-- `CFG_RESERVED`: the reserved bits of the configuration byte. -/
  cfgReserved : Byte := 0x1F#8
  /-- `ROM_BITS`: read slots of a ROM code, a number of bits (90_conflicts.md C1). -/
  romBits : Nat := 64
  /-- `SP_BITS`: read slots of a scratchpad, a number of bits. -/
  spBits : Nat := 72
  /-- `RES_DEFAULT`: the resolution a malformed byte decodes to and an out-of-range operand is replaced by, in bits. -/
  resDefault : Nat := 12
  /-- `FRAMER_MAX_BYTES`: the most bytes one framer call sends, a number of bytes. -/
  framerMaxBytes : Nat := 4
  /-- `EPS_US`: the tolerance of a microsecond wait; `none` is the table's `OPEN`. Read through `Params.eps`. -/
  epsUs : Option Nat := none
deriving DecidableEq, Repr

/-- The tolerance of a microsecond wait: the record's, or a free value where it is open (00_scope.md R5, D24). -/
def Params.eps (c : Params) : Nat := c.epsUs.getD Config.epsUs

/-- The *constraint* column of 00_scope.md R5 and the window of `T_PDS` that 40_timeslot_primitives.md R133 derives. The
four sizes are pinned to the one number the document gives each. DESIGN CHOICE (notes/assumptions/11.md): `T_RDL`, whose
constraint is "brief (~3 µs)" with no number, has no condition of its own, only those of the two sums it stands in;
`EPS_US`, which is open, and `T_CONV_BASE_MS`, whose constraint is "none", have none. -/
def Params.wf (c : Params) : Bool :=
  decide (480 ≤ c.tRstl) && decide (60 < c.tPds) && decide (c.tPds < 75)
    && decide (480 ≤ c.tPds + c.tRsthRest) && decide (60 ≤ c.tW0l) && decide (1 ≤ c.tRec) && decide (c.tW1l < 15)
    && decide (60 ≤ c.tW1l + c.tW1h) && decide (c.tRdl + c.tRds ≤ 15)
    && decide (61 ≤ c.tRdl + c.tRds + c.tRdRest) && decide (10 ≤ c.tCopyMs)
    && !c.cfgReserved.getLsbD 5 && !c.cfgReserved.getLsbD 6
    && decide (c.romBits = 64) && decide (c.spBits = 72) && decide (c.resDefault = 12) && decide (c.framerMaxBytes = 4)

namespace Config

/-- `CAP_CRC`: no CRC is checked (00_scope.md R4); hard-wired 0. -/
def capCrc : Bool := false

/-- `CAP_SEARCH`: no ROM search (00_scope.md R4); hard-wired 0. -/
def capSearch : Bool := false

/-- FREE VALUE. The line level at the `k`-th sample taken, where the environment's answer is not already listed in
the state (00_scope.md R10: "a free input of the step (a draw), one bit per `S` event"; U1). Notes: log 2. -/
opaque lineSample : Nat → Bool

/-- FREE VALUE. What a host read of a byte register returns while the operation in progress writes it (R29, U12). -/
opaque busyByte : Nat → Byte

/-- FREE VALUE. The same for the 16-bit register `TEMP_RAW` (R29, U12). -/
opaque busyWord : Nat → BitVec 16

/-- FREE VALUE. The same for `RES` (R29, U12). -/
opaque busyNumber : Nat → Nat

/-- FREE VALUE. The same for a flag (R29, U12). -/
opaque busyFlag : Nat → Bool

/-- FREE VALUE. `SHIFT` while no operation is in progress: "unspecified" after a hardware reset (70_reset_and_hazards.md
R290), "any value" while `BUSY = 0` (U16). -/
opaque idleShift : Nat → BitVec 32

/-- FREE VALUE. The same for `BIT_IDX`, an integer 0..71 (R27, R290, U16). -/
opaque idleBitIdx : Nat → Fin 72

end Config

end Sys2Proof
end

