-- ==== Sys2Proof/Syntax.lean ====
section
/-! DEFINITION. The instruction set: the sixteen host operations of 30_encoding.md R106, one constructor per row of
spec/opcode_table.json. -/

namespace Sys2Proof

/-- A host operation with its operands (30_encoding.md R106, R107). Integers are integers where the rules treat them
so (`res`, `n`); `v`, `th` and `tl` are bit patterns of their stated width (`th`, `tl` two's complement, R101). -/
inductive Instr where
  /-- READ_ROM (0x33), R181. -/
  | readRom
  /-- MATCH_ROM (0x55), R182. -/
  | matchRom
  /-- SKIP_ROM (0xCC), R183. -/
  | skipRom
  /-- ALARM_SEARCH (0xEC), R184. -/
  | alarmSearch
  /-- CONVERT_T (0x44), R201. -/
  | convertT
  /-- WRITE_SCRATCHPAD (0x4E), R203. -/
  | writeScratchpad (th tl : Byte) (res : Int)
  /-- READ_SCRATCHPAD (0xBE), R205. -/
  | readScratchpad
  /-- COPY_SCRATCHPAD (0x48), R206. -/
  | copyScratchpad
  /-- RECALL_E2 (0xB8), R207. -/
  | recallE2
  /-- READ_POWER_SUPPLY (0xB4), R208. -/
  | readPowerSupply
  /-- RESET (0x01), R137. -/
  | reset
  /-- WRITE0 (0x02), R138. -/
  | write0
  /-- WRITE1 (0x03), R138. -/
  | write1
  /-- READBIT (0x04), R140. -/
  | readbit
  /-- WRITE_BYTES (0x05), R169. -/
  | writeBytes (v : BitVec 32) (n : Int)
  /-- INIT (0x06), R248. -/
  | init
deriving DecidableEq, Repr, Inhabited

/-- FREE VALUE. `CUR_OP` while no operation is in progress: "unspecified" after a hardware reset
(70_reset_and_hazards.md R290), "meaningless while `BUSY = 0`" (10_state.md R27, U16). -/
opaque Config.idleCurOp : Nat → Instr

end Sys2Proof
end

