-- ==== Sys2Proof/WellFormed.lean ====
section
/-! DEFINITION. Which operands the spec admits: the legal byte counts of WRITE_BYTES, and integers that the host's
operand field (the model's, 32 bits two's complement) can carry. -/

namespace Sys2Proof

/-- The integer fits the operand field of the host command (DESIGN CHOICE, notes/assumptions/4.md: 32 bits two's
complement, which is "at least 8 bits" as 30_encoding.md R107 asks of `res`). -/
def fitsField (x : Int) : Bool := decide (-2147483648 ≤ x) && decide (x < 2147483648)

/-- The host command word can carry the operands. -/
def Instr.encodable : Instr → Bool
  | .writeScratchpad _ _ res => fitsField res
  | .writeBytes _ n => fitsField n
  | .readRom | .matchRom | .skipRom | .alarmSearch | .convertT | .readScratchpad | .copyScratchpad | .recallE2
  | .readPowerSupply | .reset | .write0 | .write1 | .readbit | .init => true

/-- The operands are legal: `n` is 1 to `FRAMER_MAX_BYTES` (30_encoding.md R107, R108 (c)); every `res` is legal, since
the block clamps it (43_function_commands.md R204). -/
def Instr.legal (c : Params) : Instr → Bool
  | .writeBytes _ n => decide (1 ≤ n) && decide (n ≤ (c.framerMaxBytes : Int))
  | .readRom | .matchRom | .skipRom | .alarmSearch | .convertT | .writeScratchpad _ _ _ | .readScratchpad
  | .copyScratchpad | .recallE2 | .readPowerSupply | .reset | .write0 | .write1 | .readbit | .init => true

/-- A well-formed operation: its operands are legal and the command word can carry them. -/
def Instr.wf (c : Params) (i : Instr) : Bool := i.encodable && i.legal c

end Sys2Proof
end

