-- ==== Sys2Proof/Decode.lean ====
section
/-! DEFINITION. The host command word: decoder (total, rejecting by name) and encoder. The command code is the byte
of 30_encoding.md R106; how the operands follow it is the model's own layout (DESIGN CHOICE, notes/assumptions/4.md),
because the spec gives operands no bits: least significant byte first, in the order R106 names them. -/

namespace Sys2Proof

/-- Why a command word is no operation. -/
inductive DecodeError where
  /-- no command code at all -/
  | noCode
  /-- a command code other than the sixteen of R106 (R108 (b)) -/
  | reservedCode (code : Byte)
  /-- the operand bytes of the code are not all there -/
  | missingOperands (code : Byte)
deriving DecidableEq, Repr

/-- Four bytes, least significant first, as one 32-bit value (20_memory.md R64). -/
def joinBytes (b0 b1 b2 b3 : Byte) : BitVec 32 := b3 ++ b2 ++ b1 ++ b0

/-- The four bytes of a 32-bit value, least significant first. -/
def splitBytes (v : BitVec 32) : List Byte :=
  [v.extractLsb' 0 8, v.extractLsb' 8 8, v.extractLsb' 16 8, v.extractLsb' 24 8]

/-- The operand field of an integer: 32 bits two's complement. -/
def fieldOfInt (x : Int) : List Byte := splitBytes (BitVec.ofInt 32 x)

/-- The integer in an operand field. -/
def intOfField (b0 b1 b2 b3 : Byte) : Int := (joinBytes b0 b1 b2 b3).toInt

/-- WRITE_SCRATCHPAD's operands: `th`, `tl`, then `res`. -/
def decodeWriteScratchpad (c : Byte) : List Byte → Except DecodeError Instr
  | th :: tl :: r0 :: r1 :: r2 :: r3 :: _ => .ok (.writeScratchpad th tl (intOfField r0 r1 r2 r3))
  | _ => .error (.missingOperands c)

/-- WRITE_BYTES' operands: `v`, then `n`. -/
def decodeWriteBytes (c : Byte) : List Byte → Except DecodeError Instr
  | v0 :: v1 :: v2 :: v3 :: n0 :: n1 :: n2 :: n3 :: _ =>
    .ok (.writeBytes (joinBytes v0 v1 v2 v3) (intOfField n0 n1 n2 n3))
  | _ => .error (.missingOperands c)

/-- The operation a code byte names, given the bytes that stand after it on the host's operand lines
(30_encoding.md R106, R108). -/
def decodeOp (c : Byte) (rest : List Byte) : Except DecodeError Instr :=
  if c = 0x33#8 then .ok .readRom
  else if c = 0x55#8 then .ok .matchRom
  else if c = 0xCC#8 then .ok .skipRom
  else if c = 0xEC#8 then .ok .alarmSearch
  else if c = 0x44#8 then .ok .convertT
  else if c = 0x4E#8 then decodeWriteScratchpad c rest
  else if c = 0xBE#8 then .ok .readScratchpad
  else if c = 0x48#8 then .ok .copyScratchpad
  else if c = 0xB8#8 then .ok .recallE2
  else if c = 0xB4#8 then .ok .readPowerSupply
  else if c = 0x01#8 then .ok .reset
  else if c = 0x02#8 then .ok .write0
  else if c = 0x03#8 then .ok .write1
  else if c = 0x04#8 then .ok .readbit
  else if c = 0x05#8 then decodeWriteBytes c rest
  else if c = 0x06#8 then .ok .init
  else .error (.reservedCode c)

/-- The decoder: code byte first, operands after it; bytes beyond the operation's own operands are ignored. -/
def decode : List Byte → Except DecodeError Instr
  | [] => .error .noCode
  | c :: rest => decodeOp c rest

/-- The command code of an operation (30_encoding.md R106). -/
def Instr.code : Instr → Byte
  | .readRom => 0x33#8
  | .matchRom => 0x55#8
  | .skipRom => 0xCC#8
  | .alarmSearch => 0xEC#8
  | .convertT => 0x44#8
  | .writeScratchpad _ _ _ => 0x4E#8
  | .readScratchpad => 0xBE#8
  | .copyScratchpad => 0x48#8
  | .recallE2 => 0xB8#8
  | .readPowerSupply => 0xB4#8
  | .reset => 0x01#8
  | .write0 => 0x02#8
  | .write1 => 0x03#8
  | .readbit => 0x04#8
  | .writeBytes _ _ => 0x05#8
  | .init => 0x06#8

/-- The operand bytes of an operation. -/
def Instr.operandBytes : Instr → List Byte
  | .writeScratchpad th tl res => th :: tl :: fieldOfInt res
  | .writeBytes v n => splitBytes v ++ fieldOfInt n
  | .readRom | .matchRom | .skipRom | .alarmSearch | .convertT | .readScratchpad | .copyScratchpad | .recallE2
  | .readPowerSupply | .reset | .write0 | .write1 | .readbit | .init => []

/-- The encoder: the bytes of an operation's command word. -/
def encode (i : Instr) : List Byte := i.code :: i.operandBytes

/-- The longest command word, in bytes (WRITE_BYTES: code, `v`, `n`). -/
def maxCommandBytes : Nat := 9

/-- The bytes of an instruction whose low `nbits` bits are `w`, bit 0 the least significant bit of the first byte; every
higher bit, up to the longest command word, is 0. -/
def tableBytes (nbits w : Nat) : List Byte :=
  (List.range maxCommandBytes).map fun k => BitVec.ofNat 8 ((w % 2 ^ nbits) >>> (8 * k))

/-- What the decoder reads from a word numbered as spec/opcode_table.json numbers it. -/
def decodeTableWord (nbits w : Nat) : Option Instr :=
  match decode (tableBytes nbits w) with
  | .ok i => some i
  | .error _ => none

end Sys2Proof
end

