-- ==== Sys2Proof/Machine/State.lean ====
section
/-! DEFINITION. The state of the block (10_state.md, whole), the sequencer's steps, the event trace, the host port,
and the state after reset. -/

namespace Sys2Proof.Machine

/-- `DIR`, the direction of the bus pin (10_state.md R20). -/
inductive Dir where
  | out
  | inp
deriving DecidableEq, Repr

/-- An event of the trace (00_scope.md R7, R8). -/
inductive Event where
  /-- `L`: output mode, low -/
  | low
  /-- `H`: output mode, high -/
  | high
  /-- `Z`: released to input -/
  | release
  /-- `S(b)`: the line sampled -/
  | sample (b : Bool)
  /-- `Wu(n)`: a wait of nominally `n` microseconds -/
  | waitUs (n : Nat)
  /-- `Wm(n)`: a wait of at least `n` milliseconds -/
  | waitMs (n : Nat)
  /-- `M+`: a masked region begins -/
  | mask
  /-- `M-`: a masked region ends -/
  | unmask
deriving DecidableEq, Repr

/-- The local variable a sample is bound to: `s1`, `s2` of the reset procedure (R131), `b` of a read slot (R136). -/
inductive Latch where
  | s1
  | s2
  | b
deriving DecidableEq, Repr

/-- The two buffers of the deserializer (20_memory.md R60, R165). -/
inductive Buf where
  | rom
  | sp
deriving DecidableEq, Repr

/-- What one line of the pseudocode does: the eight primitives of 00_scope.md R7, and the register transfers of the
rules of files 40 to 44. -/
inductive Prim where
  /-- `LineOutLow()` -/
  | lineOutLow
  /-- `LineOutHigh()` -/
  | lineOutHigh
  /-- `LineRelease()` -/
  | lineRelease
  /-- `x := LineSample()` -/
  | lineSample (x : Latch)
  /-- `WaitUs(n)` -/
  | waitUs (n : Nat)
  /-- `WaitMs(n)` -/
  | waitMs (n : Nat)
  /-- `MaskEnter()` -/
  | maskEnter
  /-- `MaskExit()` -/
  | maskExit
  /-- `SHIFT <- v` (R160) -/
  | loadShift (v : BitVec 32)
  /-- the loop counter: `BIT_IDX := k` (R160, R165) -/
  | setBitIdx (k : Nat)
  /-- `buf[j] <- 0x00` for every `j` (R165) -/
  | clearBuf (buf : Buf)
  /-- `if b == 1 then buf[BIT_IDX div 8] <- buf[BIT_IDX div 8] | (1 << (BIT_IDX mod 8))` (R165) -/
  | accumulate (buf : Buf)
  /-- `DETECTED <- (s1 == 0) and (s2 == 1)` (R131) -/
  | setDetected
  /-- `ALARM <- (b == 0)` (R184) -/
  | setAlarm
  /-- `PARASITE <- (b == 0)` (R208) -/
  | setParasite
  /-- `DecodeScratchpad()` (R240) -/
  | decodeScratchpad
  /-- READBIT hands `b` to the host as `RB` (R140) -/
  | handRb
  /-- `BUSY <- 0` -/
  | busyOff
deriving DecidableEq, Repr

/-- A step of the sequencer: a primitive, or one of the block's two data-dependent branches inside a loop. -/
inductive Micro where
  /-- perform a primitive -/
  | prim (p : Prim)
  /-- `if SHIFT[BIT_IDX] == 1 then SlotW1() else SlotW0()` (R160) -/
  | routeSlot
  /-- `until b == 1`: go on when `b = 1`, else issue one more read slot (R167) -/
  | untilOne
deriving DecidableEq, Repr

/-- A register the host can read (10_state.md R29). -/
inductive HostReg where
  | rom (k : Fin 8)
  | sp (k : Fin 9)
  | tempRaw
  | th
  | tl
  | res
  | detected
  | parasite
  | alarm
  | busy
  | capCrc
  | capSearch
deriving DecidableEq, Repr

/-- The value of a register on the host's read port. -/
inductive HostValue where
  /-- a byte register (`ROM[k]`, `SP[k]`, `TH`, `TL`) -/
  | byte (v : Byte)
  /-- `TEMP_RAW` -/
  | word (v : BitVec 16)
  /-- `RES` -/
  | number (n : Nat)
  /-- a flag, `BUSY` or a capability constant -/
  | flag (b : Bool)
deriving DecidableEq, Repr

/-- Why the block refuses a start (60_exceptions.md R260: the only non-execution outcomes). -/
inductive RefusedStart where
  /-- a start while `BUSY = 1` (70_reset_and_hazards.md R300) -/
  | busy
  /-- WRITE_BYTES with `n` outside 1..4 (41_byte_framer.md R169) -/
  | byteCount
  /-- no operation: a reserved command code (30_encoding.md R108 (b)), or a command word cut short -/
  | badCommand (e : DecodeError)
deriving DecidableEq, Repr

/-- What the block answered to the host's last start or read. The spec's block signals completion through `BUSY` only
(R266); this port carries the fact of an acceptance or a refusal and the value of a register read (R29). The result bit of
READBIT is not here but in `State.rb`, so that no later answer, a refusal of a second start among them (R300), takes it from
the host. -/
inductive Reply where
  /-- nothing yet -/
  | none
  /-- the last start was accepted -/
  | accepted
  /-- the last start was refused: no line activity, no state change -/
  | refusedStart (why : RefusedStart)
  /-- the value of a register the host read -/
  | value (v : HostValue)
deriving DecidableEq, Repr

/-- What the host (or the board) does to the block; one stimulus is one step. -/
inductive Stimulus where
  /-- start an operation, which then runs to its end, or to a completion poll that answered 0, in this one step -/
  | start (command : List Byte)
  /-- start an operation, which then performs one sequencer step at each `tick` -/
  | accept (command : List Byte)
  /-- the host does nothing; the operation in progress performs one sequencer step -/
  | tick
  /-- hardware reset of the block (70_reset_and_hazards.md R290, R291) -/
  | hwReset
  /-- the host writes `IRQ_EN` (10_state.md R22) -/
  | setIrqEn (b : Bool)
  /-- the host reads a register (10_state.md R29) -/
  | read (r : HostReg)
deriving DecidableEq, Repr

/-- The state of the block. The first group is the spec's (10_state.md R20 to R27), the second the model's own
(INVENTORY.md, State). `CAP_CRC` and `CAP_SEARCH` are the constants of Config. -/
structure State where
  /-- `DIR` (R20) -/
  dir : Dir
  /-- `LVL` (R20): 1 = high -/
  lvl : Bool
  /-- `IRQ_EN` (R22): 1 = interrupts may pre-empt -/
  irqEn : Bool
  /-- `IRQ_SAVED` (R22) -/
  irqSaved : Bool
  /-- `ROM[0..7]` (R23) -/
  rom : Vector Byte 8
  /-- `SP[0..8]` (R24) -/
  sp : Vector Byte 9
  /-- `TEMP_RAW` (R25), two's complement, units of 1/16 °C -/
  tempRaw : BitVec 16
  /-- `TH` (R25), two's complement -/
  th : Byte
  /-- `TL` (R25), two's complement -/
  tl : Byte
  /-- `RES` (R25), an integer of 9..12 -/
  res : Nat
  /-- `DETECTED` (R26) -/
  detected : Bool
  /-- `PARASITE` (R26) -/
  parasite : Bool
  /-- `ALARM` (R26) -/
  alarm : Bool
  /-- `BUSY` (R27) -/
  busy : Bool
  /-- `CUR_OP` (R27), with its operands; meaningless while `BUSY = 0` -/
  curOp : Instr
  /-- `BIT_IDX` (R27) -/
  bitIdx : Nat
  /-- `SHIFT` (R27) -/
  shift : BitVec 32
  /-- the parameters of 00_scope.md R5; no step changes them -/
  cfg : Params
  /-- what the operation in progress has still to do (R27: "one primitive after the other") -/
  pending : List Micro
  /-- the local variable `s1` of the reset procedure (R131) -/
  latchS1 : Bool
  /-- the local variable `s2` of the reset procedure (R131) -/
  latchS2 : Bool
  /-- the local variable `b` of a read slot (R136) -/
  latchB : Bool
  /-- the event trace so far, oldest first (R8) -/
  trace : List Event
  /-- answers of the environment already decided, oldest first (R10) -/
  line : List Bool
  /-- samples taken so far: the index of the next free draw -/
  draws : Nat
  /-- free values taken so far on the host port, at the end of operations and at hardware resets -/
  freeUsed : Nat
  /-- what the host does next, oldest first -/
  inbox : List Stimulus
  /-- `RB` as the host holds it: the bit the last READBIT handed over (R107); the block does not keep it (R140) -/
  rb : Option Bool
  /-- the answer to the host's last start or read -/
  reply : Reply
deriving DecidableEq, Repr

/-- The machine stops with a fault. -/
inductive Fault where
  /-- Raised by a host write of `IRQ_EN` while `BUSY = 1` (10_state.md R22: "only while `BUSY = 0`"; U13: "`fault`
  ... a claim is void if it does otherwise"). Safe: nothing is claimed of such a run. -/
  | irqEnWrittenWhileBusy
deriving DecidableEq, Repr

/-- No meaning for an instruction. -/
inductive Refusal where
  /-- Raised by an arm of `exec` whose instruction has no meaning yet; no arm does. Safe. The refusals of the SPEC
  (30_encoding.md R108, 70_reset_and_hazards.md R300) are no stops: see `RefusedStart` and notes/assumptions/3.md. -/
  | notModelled (mnemonic : String)
deriving DecidableEq, Repr

/-- The state after hardware reset (10_state.md R30, 70_reset_and_hazards.md R290). DESIGN CHOICE where the spec gives
no value: `IRQ_EN` (notes/assumptions/6.md), `CUR_OP`, `BIT_IDX`, `SHIFT` (notes/assumptions/7.md) and the model's own
fields (notes/assumptions/2.md, 3.md, 17.md). -/
def State.reset : State where
  dir := .out
  lvl := true
  irqEn := true
  irqSaved := false
  rom := Vector.replicate 8 0x00#8
  sp := Vector.replicate 9 0x00#8
  tempRaw := 0#16
  th := 0#8
  tl := 0#8
  res := 12
  detected := false
  parasite := false
  alarm := false
  busy := false
  curOp := .reset
  bitIdx := 0
  shift := 0#32
  cfg := {}
  pending := []
  latchS1 := false
  latchS2 := false
  latchB := false
  trace := []
  line := []
  draws := 0
  freeUsed := 0
  inbox := []
  rb := none
  reply := .none

end Sys2Proof.Machine
end

