-- ==== Sys2Proof/Machine/Flags.lean ====
section
/-! DEFINITION. How the flags and the resolution follow from what was sampled (10_state.md R26, R105, R241). -/

namespace Sys2Proof.Machine

/-- `DETECTED` from the two reset samples (40_timeslot_primitives.md R131, R132): low, then high. -/
def presence (s1 s2 : Bool) : Bool := !s1 && s2

/-- The one-bit responses: the low sample is the asserted answer (30_encoding.md R105). -/
def assertedLow (b : Bool) : Bool := !b

/-- The byte does not carry the reserved pattern in bits 7 and 4..0 (44_decode_power_init.md R241). -/
def malformedConfig (c : Params) (byte : Byte) : Bool := byte &&& 0x9F#8 != c.cfgReserved

/-- `DecodeRes` (44_decode_power_init.md R241). -/
def decodeRes (c : Params) (byte : Byte) : Nat :=
  if malformedConfig c byte then c.resDefault else 9 + (byte.extractLsb' 5 2).toNat

end Sys2Proof.Machine
end

