-- ==== Sys2Proof/Machine/Operands.lean ====
section
/-! DEFINITION. Operand assembly and the views of the registers: the scratchpad payload (30_encoding.md R98 to R101),
the resolution clamp (R204), the conversion wait (R202), the temperature (R243, R244), one bit of a buffer (R63). -/

namespace Sys2Proof.Machine

/-- `u8(x)`: the 8-bit two's-complement pattern (00_scope.md R6). -/
def u8 (x : Int) : Byte := BitVec.ofInt 8 x

/-- The resolution sent for the operand `res` (43_function_commands.md R204). -/
def clampRes (c : Params) (res : Int) : Nat :=
  if 9 ≤ res ∧ res ≤ 12 then res.toNat else c.resDefault

/-- The configuration byte: `((r - 9) << 5) | CFG_RESERVED` with `r` clamped (30_encoding.md R99, R203). -/
def configByte (c : Params) (res : Int) : Byte :=
  (BitVec.ofNat 8 (clampRes c res - 9) <<< 5) ||| c.cfgReserved

/-- The framer value of the scratchpad payload: `cfg << 16 | u8(tl) << 8 | u8(th)` (30_encoding.md R98, R203). -/
def scratchpadPayload (c : Params) (th tl : Byte) (res : Int) : BitVec 32 :=
  ((configByte c res).setWidth 32 <<< 16) ||| (tl.setWidth 32 <<< 8) ||| th.setWidth 32

/-- The fixed conversion wait in milliseconds: `T_CONV_BASE_MS / 2^(12 - RES)` (43_function_commands.md R202;
44_decode_power_init.md R249 (e)), exact for the base 800 and `RES` of 9..12. DESIGN CHOICE (notes/assumptions/22.md): for a
record whose base the power of two does not divide, where the spec gives no rounding, the quotient is rounded down; a `RES`
outside 9..12, which no rule produces, gives the same formula with `12 - RES` cut off at 0. -/
def conversionWaitMs (c : Params) (res : Nat) : Nat := c.tConvBaseMs / 2 ^ (12 - res)

/-- The temperature word `SP[1] :: SP[0]` (30_encoding.md R104, 44_decode_power_init.md R243). -/
def temperatureWord (sp : Vector Byte 9) : BitVec 16 := sp[1] ++ sp[0]

/-- `TEMP`, in degrees Celsius, exactly `TEMP_RAW / 16` (44_decode_power_init.md R244). -/
def State.temp (s : State) : Rat := (s.tempRaw.toInt : Rat) / 16

/-- `buf[k div 8] | (1 << (k mod 8))` in place (20_memory.md R63, R68). An index past the buffer, which no rule
produces (R63), changes nothing. -/
def orBit {n : Nat} (buf : Vector Byte n) (k : Nat) : Vector Byte n :=
  if h : k / 8 < n then buf.set (k / 8) (buf[k / 8] ||| (1#8 <<< (k % 8))) h else buf

/-- Bit `k` of the 32-bit value being serialized (41_byte_framer.md R160). -/
def shiftBit (v : BitVec 32) (k : Nat) : Bool := v.getLsbD k

/-- The environment's answer to the `k`-th sample from here on (00_scope.md R10): what is already listed, and after that a
free draw. -/
def answerAt (listed : List Bool) (draws k : Nat) : Bool :=
  match listed[k]? with
  | some b => b
  | none => Config.lineSample (draws + k)

/-- The answer to the `k`-th sample from this state on. -/
def State.answer (s : State) (k : Nat) : Bool := answerAt s.line s.draws k

end Sys2Proof.Machine
end

