-- ==== Sys2Proof/Machine/Ops.lean ====
section
/-! DEFINITION. The shared operations: the primitives of 00_scope.md R7 and the register transfers (`perform`), the
procedures of files 40 to 44 as sequences of them (`Proc`), the sequencer (`tick`, `advance`), acceptance and refusal of
a start, and the hardware reset. There is no exception to take (60_exceptions.md R260); the one save-and-restore
mechanism is `maskEnter` / `maskExit` (R267, R268). -/

namespace Sys2Proof.Machine

/-- Append an event to the trace (00_scope.md R8). -/
def State.emit (s : State) (e : Event) : State := { s with trace := s.trace ++ [e] }

/-- `MaskEnter()`: `IRQ_SAVED <- IRQ_EN; IRQ_EN <- 0` (60_exceptions.md R267). -/
def State.maskEnter (s : State) : State := { s with irqSaved := s.irqEn, irqEn := false }

/-- `MaskExit()`: `IRQ_EN <- IRQ_SAVED` (60_exceptions.md R268). -/
def State.maskExit (s : State) : State := { s with irqEn := s.irqSaved }

/-- Consume the environment's next answer (00_scope.md R10). -/
def State.takeAnswer (s : State) : State := { s with line := s.line.tail, draws := s.draws + 1 }

/-- Bind a sampled bit to a local variable of the pseudocode. -/
def State.setLatch (s : State) (x : Latch) (b : Bool) : State :=
  match x with
  | .s1 => { s with latchS1 := b }
  | .s2 => { s with latchS2 := b }
  | .b => { s with latchB := b }

/-- `buf[j] <- 0x00` for every `j` (41_byte_framer.md R165). -/
def State.clearBuf (s : State) (buf : Buf) : State :=
  match buf with
  | .rom => { s with rom := Vector.replicate 8 0x00#8 }
  | .sp => { s with sp := Vector.replicate 9 0x00#8 }

/-- Set bit `BIT_IDX` of the buffer if the sampled bit is 1 (41_byte_framer.md R165, 20_memory.md R68). -/
def State.accumulate (s : State) (buf : Buf) : State :=
  if s.latchB then
    match buf with
    | .rom => { s with rom := orBit s.rom s.bitIdx }
    | .sp => { s with sp := orBit s.sp s.bitIdx }
  else s

/-- `DecodeScratchpad()` (44_decode_power_init.md R240 to R243). The registers hold two's-complement patterns, so the
sign extension of R242 and R243 is in how they are read (`BitVec.toInt`). -/
def State.decodeScratchpad (s : State) : State :=
  { s with res := decodeRes s.cfg s.sp[4], th := s.sp[2], tl := s.sp[3], tempRaw := temperatureWord s.sp }

/-- The sequencer's registers while no operation is in progress: "meaningless" (10_state.md R27), "any value"
(93_implementation_defined.md U16). -/
def State.idleSequencer (s : State) : State :=
  { s with
    curOp := Config.idleCurOp s.freeUsed
    bitIdx := (Config.idleBitIdx s.freeUsed).val
    shift := Config.idleShift s.freeUsed
    freeUsed := s.freeUsed + 1 }

/-- The effect of one primitive (00_scope.md R7) or register transfer. -/
def perform (p : Prim) (s : State) : State :=
  match p with
  | .lineOutLow => { s with dir := .out, lvl := false }.emit .low
  | .lineOutHigh => { s with dir := .out, lvl := true }.emit .high
  | .lineRelease => { s with dir := .inp }.emit .release
  | .lineSample x => (s.takeAnswer.setLatch x (s.answer 0)).emit (.sample (s.answer 0))
  | .waitUs n => s.emit (.waitUs n)
  | .waitMs n => s.emit (.waitMs n)
  | .maskEnter => s.maskEnter.emit .mask
  | .maskExit => s.maskExit.emit .unmask
  | .loadShift v => { s with shift := v }
  | .setBitIdx k => { s with bitIdx := k }
  | .clearBuf buf => s.clearBuf buf
  | .accumulate buf => s.accumulate buf
  | .setDetected => { s with detected := presence s.latchS1 s.latchS2 }
  | .setAlarm => { s with alarm := assertedLow s.latchB }
  | .setParasite => { s with parasite := assertedLow s.latchB }
  | .decodeScratchpad => s.decodeScratchpad
  | .handRb => { s with rb := some s.latchB }
  | .busyOff => { s with busy := false }.idleSequencer

/-- Perform primitives one after the other (20_memory.md R71). -/
def performAll : List Prim → State → State
  | [], s => s
  | p :: ps, s => performAll ps (perform p s)

namespace Proc

/-- `Reset()` (40_timeslot_primitives.md R131). -/
def reset (c : Params) : List Prim :=
  [.maskEnter, .lineOutLow, .waitUs c.tRstl, .lineRelease, .waitUs c.tPds, .lineSample .s1, .waitUs c.tRsthRest,
    .lineSample .s2, .lineOutHigh, .setDetected, .maskExit]

/-- `SlotW0()` (40_timeslot_primitives.md R134). -/
def slotW0 (c : Params) : List Prim := [.lineOutLow, .waitUs c.tW0l, .lineOutHigh, .waitUs c.tRec]

/-- `SlotW1()` (40_timeslot_primitives.md R135). -/
def slotW1 (c : Params) : List Prim := [.lineOutLow, .waitUs c.tW1l, .lineOutHigh, .waitUs c.tW1h]

/-- The slot a bit is routed to (41_byte_framer.md R160, R161). -/
def slotW (c : Params) (b : Bool) : List Prim := if b then slotW1 c else slotW0 c

/-- `b := SlotR()` (40_timeslot_primitives.md R136). -/
def slotR (c : Params) : List Prim :=
  [.lineOutLow, .waitUs c.tRdl, .lineRelease, .waitUs c.tRds, .lineSample .b, .waitUs c.tRdRest, .lineOutHigh]

/-- Primitives as steps of the sequencer. -/
def steps (ps : List Prim) : List Micro := ps.map Micro.prim

/-- One turn of the serializer's loop (41_byte_framer.md R160). -/
def writeTurn (k : Nat) : List Micro := [.prim (.setBitIdx k), .routeSlot]

/-- `WriteBytes(v, n)` (41_byte_framer.md R160). -/
def writeBytes (v : BitVec 32) (n : Nat) : List Micro :=
  steps [.maskEnter, .loadShift v] ++ (List.range (8 * n)).flatMap writeTurn ++ steps [.maskExit]

/-- One turn of the deserializer's loop (41_byte_framer.md R165). -/
def readTurn (c : Params) (buf : Buf) (k : Nat) : List Prim := .setBitIdx k :: slotR c ++ [.accumulate buf]

/-- `ReadBits(buf, nbits)` (41_byte_framer.md R165). -/
def readBits (c : Params) (buf : Buf) (nbits : Nat) : List Prim :=
  [.maskEnter, .clearBuf buf] ++ (List.range nbits).flatMap (readTurn c buf) ++ [.maskExit]

/-- `b := ReadBit1()` (41_byte_framer.md R166). -/
def readBit1 (c : Params) : List Prim := .maskEnter :: slotR c ++ [.maskExit]

/-- `PollUntilOne()` (41_byte_framer.md R167). -/
def pollUntilOne (c : Params) : List Micro := steps (readBit1 c) ++ [.untilOne]

/-- A one-byte opcode as its own framer call (41_byte_framer.md R164). -/
def opcode (op : Byte) : List Micro := writeBytes (op.setWidth 32) 1

/-- The transmission of the stored identity, eight framer calls (41_byte_framer.md R164, 42_rom_commands.md R182). -/
def sendRom (rom : Vector Byte 8) : List Micro := rom.toList.flatMap opcode

/-- `RomCmd(READ)` (42_rom_commands.md R180). -/
def romRead (c : Params) : List Micro := opcode 0x33#8 ++ steps (readBits c .rom c.romBits)

/-- `RomCmd(MATCH)` (42_rom_commands.md R180). -/
def romMatch (rom : Vector Byte 8) : List Micro := opcode 0x55#8 ++ sendRom rom

/-- `RomCmd(SKIP)` (42_rom_commands.md R180). -/
def romSkip : List Micro := opcode 0xCC#8

/-- `RomCmd(ALARM)` (42_rom_commands.md R180). -/
def romAlarm (c : Params) : List Micro := opcode 0xEC#8 ++ steps (readBit1 c ++ [.setAlarm])

/-- `FnPrologue(op)` (43_function_commands.md R200). -/
def fnPrologue (c : Params) (op : Byte) : List Micro := steps (reset c) ++ romSkip ++ opcode op

end Proc

/-- One step of the sequencer: the operation in progress performs its next primitive, or takes a branch. -/
def tick (s : State) : State :=
  match s.pending with
  | [] => s
  | .prim p :: rest => perform p { s with pending := rest }
  | .routeSlot :: rest =>
    { s with pending := Proc.steps (Proc.slotW s.cfg (shiftBit s.shift s.bitIdx)) ++ rest }
  | .untilOne :: rest =>
    if s.latchB then { s with pending := rest }
    else { s with pending := Proc.pollUntilOne s.cfg ++ rest }

/-- Perform the given sequencer steps to the end, or up to a completion poll that answered 0; the read slot that then
follows (41_byte_framer.md R167) is left pending. -/
def runSteps : List Micro → State → State
  | [], s => { s with pending := [] }
  | .prim p :: rest, s => runSteps rest (perform p s)
  | .routeSlot :: rest, s => runSteps rest (performAll (Proc.slotW s.cfg (shiftBit s.shift s.bitIdx)) s)
  | .untilOne :: rest, s =>
    if s.latchB then runSteps rest s else { s with pending := Proc.pollUntilOne s.cfg ++ rest }

/-- The operation in progress goes on: to its end, or to the next completion poll that answers 0. With none in progress
nothing happens (70_reset_and_hazards.md R290: "the block waits for the first host operation"). -/
def advance (s : State) : State := runSteps s.pending s

/-- A refused start: no line activity, no state change (60_exceptions.md R260), no effect on the operation in progress or on
what it hands to the host (70_reset_and_hazards.md R300); only the host is told. -/
def State.refuse (s : State) (why : RefusedStart) : State := { s with reply := .refusedStart why }

/-- Acceptance of an operation: `BUSY <- 1`, and its body lies before the sequencer, `BUSY <- 0` at its end. -/
def State.accept (s : State) (i : Instr) (body : List Micro) : State :=
  { s with busy := true, curOp := i, pending := body ++ [.prim .busyOff], reply := .accepted }

/-- Whether the block refuses to start this operation now, and why (70_reset_and_hazards.md R300, 41_byte_framer.md
R169). -/
def refusal (i : Instr) (s : State) : Option RefusedStart :=
  if s.busy then some .busy else if i.legal s.cfg then none else some .byteCount

/-- Start an operation and let it run: the form every meaning has. -/
def startOp (i : Instr) (body : List Micro) (s : State) : Host.Outcome State Fault Refusal :=
  match refusal i s with
  | some why => .next (s.refuse why)
  | none => .next (advance (s.accept i body))

/-- Start an operation and leave it at its first step. -/
def acceptOp (i : Instr) (body : List Micro) (s : State) : State :=
  match refusal i s with
  | some why => s.refuse why
  | none => s.accept i body

/-- Hardware reset at any time (70_reset_and_hazards.md R290, R291): the values of R290; `IRQ_EN` is left as it is;
the three unspecified sequencer registers hold free values; the parameters, the environment, the host's stimuli and the
trace are not the block's to reset. -/
def State.hardwareReset (s : State) : State :=
  { State.reset with
    irqEn := s.irqEn
    cfg := s.cfg
    trace := s.trace
    line := s.line
    draws := s.draws
    freeUsed := s.freeUsed
    inbox := s.inbox }.idleSequencer

end Sys2Proof.Machine
end

