-- ==== Sys2Proof/Machine/FunctionCommand.lean ====
section
/-! DEFINITION. The device function commands (43_function_commands.md R200 to R208). `PARASITE` and `RES` are read as they
stand when the operation starts (92_eei_decisions.md D30). -/

namespace Sys2Proof.Machine

/-- CONVERT_T (R201): a fixed wait on parasite power, completion polling otherwise. -/
def bodyConvertT (s : State) : List Micro :=
  Proc.fnPrologue s.cfg 0x44#8 ++
    (if s.parasite then Proc.steps [.waitMs (conversionWaitMs s.cfg s.res)] else Proc.pollUntilOne s.cfg)

/-- WRITE_SCRATCHPAD(th, tl, res) (R203). -/
def bodyWriteScratchpad (th tl : Byte) (res : Int) (s : State) : List Micro :=
  Proc.fnPrologue s.cfg 0x4E#8 ++ Proc.writeBytes (scratchpadPayload s.cfg th tl res) 3

/-- READ_SCRATCHPAD (R205). -/
def bodyReadScratchpad (s : State) : List Micro :=
  Proc.fnPrologue s.cfg 0xBE#8 ++ Proc.steps (Proc.readBits s.cfg .sp s.cfg.spBits ++ [.decodeScratchpad])

/-- COPY_SCRATCHPAD (R206): a fixed wait on parasite power, nothing otherwise. -/
def bodyCopyScratchpad (s : State) : List Micro :=
  Proc.fnPrologue s.cfg 0x48#8 ++ (if s.parasite then Proc.steps [.waitMs s.cfg.tCopyMs] else [])

/-- RECALL_E2 (R207): polling in both power modes. -/
def bodyRecallE2 (s : State) : List Micro := Proc.fnPrologue s.cfg 0xB8#8 ++ Proc.pollUntilOne s.cfg

/-- READ_POWER_SUPPLY (R208). -/
def bodyReadPowerSupply (s : State) : List Micro :=
  Proc.fnPrologue s.cfg 0xB4#8 ++ Proc.steps (Proc.readBit1 s.cfg ++ [.setParasite])

/-- The meaning of CONVERT_T. -/
def execConvertT (s : State) : Host.Outcome State Fault Refusal := startOp .convertT (bodyConvertT s) s

/-- The meaning of WRITE_SCRATCHPAD. -/
def execWriteScratchpad (th tl : Byte) (res : Int) (s : State) : Host.Outcome State Fault Refusal :=
  startOp (.writeScratchpad th tl res) (bodyWriteScratchpad th tl res s) s

/-- The meaning of READ_SCRATCHPAD. -/
def execReadScratchpad (s : State) : Host.Outcome State Fault Refusal :=
  startOp .readScratchpad (bodyReadScratchpad s) s

/-- The meaning of COPY_SCRATCHPAD. -/
def execCopyScratchpad (s : State) : Host.Outcome State Fault Refusal :=
  startOp .copyScratchpad (bodyCopyScratchpad s) s

/-- The meaning of RECALL_E2. -/
def execRecallE2 (s : State) : Host.Outcome State Fault Refusal := startOp .recallE2 (bodyRecallE2 s) s

/-- The meaning of READ_POWER_SUPPLY. -/
def execReadPowerSupply (s : State) : Host.Outcome State Fault Refusal :=
  startOp .readPowerSupply (bodyReadPowerSupply s) s

end Sys2Proof.Machine
end

