-- ==== Sys2Proof/Machine/RomCommand.lean ====
section
/-! DEFINITION. The ROM commands: `Reset(); RomCmd(sel)` (42_rom_commands.md R180 to R185). -/

namespace Sys2Proof.Machine

/-- READ_ROM (R181). -/
def bodyReadRom (s : State) : List Micro := Proc.steps (Proc.reset s.cfg) ++ Proc.romRead s.cfg

/-- MATCH_ROM (R182). -/
def bodyMatchRom (s : State) : List Micro := Proc.steps (Proc.reset s.cfg) ++ Proc.romMatch s.rom

/-- SKIP_ROM (R183). -/
def bodySkipRom (s : State) : List Micro := Proc.steps (Proc.reset s.cfg) ++ Proc.romSkip

/-- ALARM_SEARCH (R184). -/
def bodyAlarmSearch (s : State) : List Micro := Proc.steps (Proc.reset s.cfg) ++ Proc.romAlarm s.cfg

/-- The meaning of READ_ROM. -/
def execReadRom (s : State) : Host.Outcome State Fault Refusal := startOp .readRom (bodyReadRom s) s

/-- The meaning of MATCH_ROM. -/
def execMatchRom (s : State) : Host.Outcome State Fault Refusal := startOp .matchRom (bodyMatchRom s) s

/-- The meaning of SKIP_ROM. -/
def execSkipRom (s : State) : Host.Outcome State Fault Refusal := startOp .skipRom (bodySkipRom s) s

/-- The meaning of ALARM_SEARCH. -/
def execAlarmSearch (s : State) : Host.Outcome State Fault Refusal := startOp .alarmSearch (bodyAlarmSearch s) s

end Sys2Proof.Machine
end

