-- ==== Sys2Proof/Machine/Construction.lean ====
section
/-! DEFINITION. INIT, the construction sequence (44_decode_power_init.md R248): the bodies of three operations in one. -/

namespace Sys2Proof.Machine

/-- INIT (R248): READ_POWER_SUPPLY; READ_SCRATCHPAD; READ_ROM, each without its `BUSY` assignments. -/
def bodyInit (s : State) : List Micro := bodyReadPowerSupply s ++ bodyReadScratchpad s ++ bodyReadRom s

/-- The meaning of INIT. -/
def execInit (s : State) : Host.Outcome State Fault Refusal := startOp .init (bodyInit s) s

end Sys2Proof.Machine
end

