-- ==== Sys2Proof/Machine/Framer.lean ====
section
/-! DEFINITION. The host operation of the byte framer (41_byte_framer.md R169). -/

namespace Sys2Proof.Machine

/-- WRITE_BYTES(v, n): the raw framer (R169); `n` outside 1..4 is refused before the body is looked at. -/
def bodyWriteBytes (v : BitVec 32) (n : Int) : List Micro := Proc.writeBytes v n.toNat

/-- The meaning of WRITE_BYTES. -/
def execWriteBytes (v : BitVec 32) (n : Int) (s : State) : Host.Outcome State Fault Refusal :=
  startOp (.writeBytes v n) (bodyWriteBytes v n) s

end Sys2Proof.Machine
end

