-- ==== Sys2Proof/Machine/TimeSlot.lean ====
section
/-! DEFINITION. The host operations of the time-slot layer (40_timeslot_primitives.md R137, R138, R140). -/

namespace Sys2Proof.Machine

/-- RESET: `Reset()` (R137). -/
def bodyReset (s : State) : List Micro := Proc.steps (Proc.reset s.cfg)

/-- WRITE0: one write-zero slot in its own masked region (R138). -/
def bodyWrite0 (s : State) : List Micro := Proc.steps (.maskEnter :: Proc.slotW0 s.cfg ++ [.maskExit])

/-- WRITE1: one write-one slot in its own masked region (R138). -/
def bodyWrite1 (s : State) : List Micro := Proc.steps (.maskEnter :: Proc.slotW1 s.cfg ++ [.maskExit])

/-- READBIT: `RB := ReadBit1()` (R140). -/
def bodyReadbit (s : State) : List Micro := Proc.steps (Proc.readBit1 s.cfg ++ [.handRb])

/-- The meaning of RESET. -/
def execReset (s : State) : Host.Outcome State Fault Refusal := startOp .reset (bodyReset s) s

/-- The meaning of WRITE0. -/
def execWrite0 (s : State) : Host.Outcome State Fault Refusal := startOp .write0 (bodyWrite0 s) s

/-- The meaning of WRITE1. -/
def execWrite1 (s : State) : Host.Outcome State Fault Refusal := startOp .write1 (bodyWrite1 s) s

/-- The meaning of READBIT. -/
def execReadbit (s : State) : Host.Outcome State Fault Refusal := startOp .readbit (bodyReadbit s) s

end Sys2Proof.Machine
end

