-- ==== Sys2Proof/Machine/Dispatch.lean ====
section
/-! DEFINITION. One arm per host operation. -/

namespace Sys2Proof.Machine

def exec (i : Instr) (s : State) : Host.Outcome State Fault Refusal :=
  match i with
  | .readRom => Sys2Proof.Machine.execReadRom s
  | .matchRom => Sys2Proof.Machine.execMatchRom s
  | .skipRom => Sys2Proof.Machine.execSkipRom s
  | .alarmSearch => Sys2Proof.Machine.execAlarmSearch s
  | .convertT => Sys2Proof.Machine.execConvertT s
  | .writeScratchpad th tl res => Sys2Proof.Machine.execWriteScratchpad th tl res s
  | .readScratchpad => Sys2Proof.Machine.execReadScratchpad s
  | .copyScratchpad => Sys2Proof.Machine.execCopyScratchpad s
  | .recallE2 => Sys2Proof.Machine.execRecallE2 s
  | .readPowerSupply => Sys2Proof.Machine.execReadPowerSupply s
  | .reset => Sys2Proof.Machine.execReset s
  | .write0 => Sys2Proof.Machine.execWrite0 s
  | .write1 => Sys2Proof.Machine.execWrite1 s
  | .readbit => Sys2Proof.Machine.execReadbit s
  | .writeBytes v n => Sys2Proof.Machine.execWriteBytes v n s
  | .init => Sys2Proof.Machine.execInit s

end Sys2Proof.Machine
end

