-- ==== Sys2Proof/Machine/HostPort.lean ====
section
/-! DEFINITION. What the host does to the block, stimulus by stimulus (10_state.md R22, R29; 30_encoding.md R106, R108;
70_reset_and_hazards.md R290, R291, R300). -/

namespace Sys2Proof.Machine

/-- The body of an operation, the one its meaning runs. -/
def bodyOf (i : Instr) (s : State) : List Micro :=
  match i with
  | .readRom => bodyReadRom s
  | .matchRom => bodyMatchRom s
  | .skipRom => bodySkipRom s
  | .alarmSearch => bodyAlarmSearch s
  | .convertT => bodyConvertT s
  | .writeScratchpad th tl res => bodyWriteScratchpad th tl res s
  | .readScratchpad => bodyReadScratchpad s
  | .copyScratchpad => bodyCopyScratchpad s
  | .recallE2 => bodyRecallE2 s
  | .readPowerSupply => bodyReadPowerSupply s
  | .reset => bodyReset s
  | .write0 => bodyWrite0 s
  | .write1 => bodyWrite1 s
  | .readbit => bodyReadbit s
  | .writeBytes v n => bodyWriteBytes v n
  | .init => bodyInit s

/-- The operation writes `SP` and the decoded registers (43_function_commands.md R205, 44_decode_power_init.md R248). -/
def writesScratchpad (i : Instr) : Bool := i == .readScratchpad || i == .init

/-- The operation starts with a `Reset`, so it writes `DETECTED` (10_state.md R26): all but the four raw ones. -/
def resetsBus : Instr → Bool
  | .write0 | .write1 | .readbit | .writeBytes _ _ => false
  | .readRom | .matchRom | .skipRom | .alarmSearch | .convertT | .writeScratchpad _ _ _ | .readScratchpad
  | .copyScratchpad | .recallE2 | .readPowerSupply | .reset | .init => true

/-- Which registers an operation writes (the "State written" of the rules of files 40 to 44). -/
def writesReg (i : Instr) : HostReg → Bool
  | .rom _ => i == .readRom || i == .init
  | .sp _ | .tempRaw | .th | .tl | .res => writesScratchpad i
  | .detected => resetsBus i
  | .parasite => i == .readPowerSupply || i == .init
  | .alarm => i == .alarmSearch
  | .busy | .capCrc | .capSearch => false

/-- The register as it stands (10_state.md R29); the capability constants are hard-wired 0 (00_scope.md R4). -/
def readReg (s : State) : HostReg → HostValue
  | .rom k => .byte s.rom[k]
  | .sp k => .byte s.sp[k]
  | .tempRaw => .word s.tempRaw
  | .th => .byte s.th
  | .tl => .byte s.tl
  | .res => .number s.res
  | .detected => .flag s.detected
  | .parasite => .flag s.parasite
  | .alarm => .flag s.alarm
  | .busy => .flag s.busy
  | .capCrc => .flag Config.capCrc
  | .capSearch => .flag Config.capSearch

/-- An unspecified value of the register's kind (10_state.md R29, U12). -/
def freeReg (k : Nat) : HostReg → HostValue
  | .rom _ | .sp _ | .th | .tl => .byte (Config.busyByte k)
  | .tempRaw => .word (Config.busyWord k)
  | .res => .number (Config.busyNumber k)
  | .detected | .parasite | .alarm | .busy | .capCrc | .capSearch => .flag (Config.busyFlag k)

/-- A host read: the register, or, while an operation is in progress that writes it, an unspecified value
(10_state.md R29). It has no side effect on the block (20_memory.md R67). -/
def hostRead (r : HostReg) (s : State) : State :=
  if s.busy && writesReg s.curOp r then
    { s with reply := .value (freeReg s.freeUsed r), freeUsed := s.freeUsed + 1 }
  else { s with reply := .value (readReg s r) }

/-- A host write of `IRQ_EN`: allowed only while `BUSY = 0` (10_state.md R22, U13). -/
def hostSetIrqEn (b : Bool) (s : State) : Host.Outcome State Fault Refusal :=
  if s.busy then .fault .irqEnWrittenWhileBusy else .next { s with irqEn := b }

/-- A command word arrives: the operation it names runs, or the start is refused (30_encoding.md R108). -/
def hostStart (command : List Byte) (s : State) : Host.Outcome State Fault Refusal :=
  match decode command with
  | .ok i => exec i s
  | .error e => .next (s.refuse (.badCommand e))

/-- A command word arrives and its operation is accepted, to go on primitive by primitive (00_scope.md R9). -/
def hostAccept (command : List Byte) (s : State) : State :=
  match decode command with
  | .ok i => acceptOp i (bodyOf i s) s
  | .error e => s.refuse (.badCommand e)

/-- One stimulus of the host. -/
def handle (x : Stimulus) (s : State) : Host.Outcome State Fault Refusal :=
  match x with
  | .start command => hostStart command s
  | .accept command => .next (hostAccept command s)
  | .tick => .next (tick s)
  | .hwReset => .next s.hardwareReset
  | .setIrqEn b => hostSetIrqEn b s
  | .read r => .next (hostRead r s)

/-- A command word placed before the host's other stimuli. -/
def placeCommand (command : List Byte) (s : State) : State := { s with inbox := .start command :: s.inbox }

/-- Take the host's oldest stimulus; with none, the operation in progress goes on. -/
def serve (s : State) : Host.Outcome State Fault Refusal :=
  match s.inbox with
  | [] => .next (advance s)
  | x :: rest => handle x { s with inbox := rest }

end Sys2Proof.Machine
end

