-- ==== Sys2Proof/Machine/Step.lean ====
section
/-! DEFINITION. One step of the machine: the host's oldest stimulus is served; with none, the operation in progress goes
on. The block fetches no instructions (10_state.md R27): the command word a step runs is the one the host starts. -/

namespace Sys2Proof.Machine

/-- One step. -/
def step (s : State) : Host.Outcome State Fault Refusal := serve s

/-- The state in which the host's next stimulus is the start of the operation with this command word. -/
def State.withFetchWord (s : State) (nbits w : Nat) : State := placeCommand (tableBytes nbits w) s

end Sys2Proof.Machine
end

