-- ==== Sys2Proof/Machine/Trace.lean ====
section
/-! DEFINITION. The trace vocabulary of the spec: the waveforms and their abbreviations (30_encoding.md R91 to R94, R97;
95_test_vectors.md), and what is read off a trace (00_scope.md R8, 70_reset_and_hazards.md R320). The step uses none of
it: these are the terms in which claims about traces are stated. -/

namespace Sys2Proof.Machine.Trace

/-- `RST(s1,s2)`: `M+ L Wu(T_RSTL) Z Wu(T_PDS) S(s1) Wu(T_RSTH_REST) S(s2) H M-` (R91). -/
def rst (c : Params) (s1 s2 : Bool) : List Event :=
  [.mask, .low, .waitUs c.tRstl, .release, .waitUs c.tPds, .sample s1, .waitUs c.tRsthRest, .sample s2, .high, .unmask]

/-- `W0`: `L Wu(T_W0L) H Wu(T_REC)` (R92). -/
def w0 (c : Params) : List Event := [.low, .waitUs c.tW0l, .high, .waitUs c.tRec]

/-- `W1`: `L Wu(T_W1L) H Wu(T_W1H)` (R93). -/
def w1 (c : Params) : List Event := [.low, .waitUs c.tW1l, .high, .waitUs c.tW1h]

/-- The write slot of a bit. -/
def slot (c : Params) (b : Bool) : List Event := if b then w1 c else w0 c

/-- `R(b)`: `L Wu(T_RDL) Z Wu(T_RDS) S(b) Wu(T_RD_REST) H` (R94). -/
def r (c : Params) (b : Bool) : List Event :=
  [.low, .waitUs c.tRdl, .release, .waitUs c.tRds, .sample b, .waitUs c.tRdRest, .high]

/-- The write slots of the low `8 * n` bits of `v`, bit 0 first, in one masked region (41_byte_framer.md R160). -/
def bytes (c : Params) (v : BitVec 32) (n : Nat) : List Event :=
  .mask :: (List.range (8 * n)).flatMap (fun k => slot c (v.getLsbD k)) ++ [.unmask]

/-- `W(xx)`: one byte in its own region. -/
def w (c : Params) (x : Byte) : List Event := bytes c (x.setWidth 32) 1

/-- `M+ R(b) M-`: one response bit (R166). -/
def bit1 (c : Params) (b : Bool) : List Event := .mask :: r c b ++ [.unmask]

/-- `M+ R(b 0) ... R(b (n-1)) M-`: `n` read slots in one region (R165). -/
def bits (c : Params) (n : Nat) (b : Nat → Bool) : List Event :=
  .mask :: (List.range n).flatMap (fun k => r c (b k)) ++ [.unmask]

/-- `n` completion polls, each its own region (R167). -/
def polls (c : Params) (n : Nat) (b : Nat → Bool) : List Event := (List.range n).flatMap fun k => bit1 c (b k)

/-- The trace of the prologue of a function command: `RST(s1,s2) W(CC) W(op)` (43_function_commands.md R200). -/
def prologue (c : Params) (s1 s2 : Bool) (op : Byte) : List Event := rst c s1 s2 ++ w c 0xCC#8 ++ w c op

/-- The nominal microseconds of an event. -/
def us : Event → Nat
  | .waitUs n => n
  | .low | .high | .release | .sample _ | .waitMs _ | .mask | .unmask => 0

/-- The milliseconds of an event. -/
def ms : Event → Nat
  | .waitMs n => n
  | .low | .high | .release | .sample _ | .waitUs _ | .mask | .unmask => 0

/-- The sum of the `Wu` arguments of a trace (R320). -/
def totalUs (t : List Event) : Nat := (t.map us).sum

/-- The sum of the `Wm` arguments of a trace (R320). -/
def totalMs (t : List Event) : Nat := (t.map ms).sum

/-- The low times read off a trace: the `Wu` arguments between an `L` and the next `H` or `Z` (R8); the first argument
is the sum collected so far in an open low pulse. -/
def lowTimesFrom : Option Nat → List Event → List Nat
  | _, [] => []
  | _, .low :: t => lowTimesFrom (some 0) t
  | some a, .high :: t => a :: lowTimesFrom none t
  | some a, .release :: t => a :: lowTimesFrom none t
  | none, .high :: t => lowTimesFrom none t
  | none, .release :: t => lowTimesFrom none t
  | some a, .waitUs n :: t => lowTimesFrom (some (a + n)) t
  | none, .waitUs _ :: t => lowTimesFrom none t
  | o, .sample _ :: t => lowTimesFrom o t
  | o, .waitMs _ :: t => lowTimesFrom o t
  | o, .mask :: t => lowTimesFrom o t
  | o, .unmask :: t => lowTimesFrom o t

/-- The low times of a trace that begins with the line high (00_scope.md R8). -/
def lowTimes (t : List Event) : List Nat := lowTimesFrom none t

/-- Each sample of a trace follows a release with no drive of the line between (00_scope.md R7, R10); the first argument
says whether the line is released where the trace begins. -/
def samplesReleased : Bool → List Event → Bool
  | _, [] => true
  | _, .release :: t => samplesReleased true t
  | _, .low :: t => samplesReleased false t
  | _, .high :: t => samplesReleased false t
  | released, .sample _ :: t => released && samplesReleased released t
  | released, .waitUs _ :: t => samplesReleased released t
  | released, .waitMs _ :: t => samplesReleased released t
  | released, .mask :: t => samplesReleased released t
  | released, .unmask :: t => samplesReleased released t

end Sys2Proof.Machine.Trace
end

