-- ==== Sys2Proof/Safety.lean ====
section
/-! DEFINITION. What a safe run is: the invariant of 10_state.md R31 extended to states in mid-operation by a static
discipline of the steps still pending (regions bracketed and not nested, R268, R269; samples only on a released line, R7,
R10; long waits outside regions, R276), and the terms in which claims about whole operations are stated. -/

namespace Sys2Proof.Machine

/-- No operation in progress and the line driven high (00_scope.md glossary; 10_state.md R21). -/
def Idle (s : State) : Prop := s.busy = false ∧ s.dir = .out ∧ s.lvl = true

/-- The decoded registers are the decode of `SP` (10_state.md R31 (d)). -/
def DecodedMatches (s : State) : Prop :=
  s.tempRaw = temperatureWord s.sp ∧ s.th = s.sp[2] ∧ s.tl = s.sp[3] ∧ s.res = decodeRes s.cfg s.sp[4]

/-- What the discipline tracks of a state: the pin, whether a masked region is open, and whether the decoded registers
match `SP`. -/
structure Shape where
  dir : Dir
  lvl : Bool
  masked : Bool
  fresh : Bool
deriving DecidableEq, Repr

/-- Outside every region, the line driven high (10_state.md R21, 40_timeslot_primitives.md R130). -/
def Shape.outside (sh : Shape) : Bool := sh.dir == .out && sh.lvl && !sh.masked

/-- What a primitive does to the shape; none where the discipline forbids it there. -/
def Shape.prim (sh : Shape) : Prim → Option Shape
  | .lineOutLow => if sh.masked then some { sh with dir := .out, lvl := false } else none
  | .lineOutHigh => if sh.masked then some { sh with dir := .out, lvl := true } else none
  | .lineRelease => if sh.masked then some { sh with dir := .inp } else none
  | .lineSample _ => if sh.masked && sh.dir == .inp then some sh else none
  | .waitUs _ => if sh.masked then some sh else none
  | .waitMs _ => if sh.outside then some sh else none
  | .maskEnter => if sh.outside then some { sh with masked := true } else none
  | .maskExit => if sh.masked && sh.dir == .out && sh.lvl then some { sh with masked := false } else none
  | .clearBuf .sp => some { sh with fresh := false }
  | .accumulate .sp => some { sh with fresh := false }
  | .decodeScratchpad => some { sh with fresh := true }
  | .setBitIdx k => if k < 72 then some sh else none
  | .busyOff => none
  | .clearBuf .rom => some sh
  | .accumulate .rom => some sh
  | .loadShift _ => some sh
  | .setDetected => some sh
  | .setAlarm => some sh
  | .setParasite => some sh
  | .handRb => some sh

/-- The same for a step of the sequencer: a write slot is routed inside a region from the line driven high, a poll's
test stands outside every region. -/
def Shape.micro (sh : Shape) : Micro → Option Shape
  | .prim p => sh.prim p
  | .routeSlot => if sh.masked && sh.dir == .out && sh.lvl then some sh else none
  | .untilOne => if sh.outside then some sh else none

/-- The pending steps keep the discipline and end with `BUSY <- 0` outside every region, the line driven high and the
decoded registers matching `SP`. -/
def settles : Shape → List Micro → Bool
  | _, [] => false
  | sh, m :: rest =>
    if m = .prim .busyOff then rest.isEmpty && sh.outside && sh.fresh
    else match sh.micro m with
      | some sh' => settles sh' rest
      | none => false

/-- What holds while an operation is in progress. -/
def BusyInv (s : State) : Prop :=
  ∃ masked fresh : Bool, settles ⟨s.dir, s.lvl, masked, fresh⟩ s.pending = true ∧
    (masked = true → s.irqEn = false) ∧ (fresh = true → DecodedMatches s)

/-- What holds between operations: the idle line, nothing pending, the decoded registers match (R31 (a), (d)). -/
def IdleInv (s : State) : Prop :=
  s.dir = .out ∧ s.lvl = true ∧ s.pending = [] ∧ DecodedMatches s

/-- The invariant (10_state.md R31). The last premise on the parameters is the one R31 (d) makes of the reset value 0x00
of `SP[4]`: it "does not carry the reserved pattern". -/
def Inv (s : State) : Prop :=
  s.cfg.wf = true ∧ s.cfg.cfgReserved ≠ 0x00#8 ∧ 9 ≤ s.res ∧ s.res ≤ 12 ∧ s.bitIdx < 72 ∧
    (s.busy = true → BusyInv s) ∧ (s.busy = false → IdleInv s)

/-- The pending steps stand inside a masked region: the next mask primitive among them is a `MaskExit`. -/
def inRegion : List Micro → Bool
  | [] => false
  | .prim .maskEnter :: _ => false
  | .prim .maskExit :: _ => true
  | .prim _ :: rest => inRegion rest
  | .routeSlot :: rest => inRegion rest
  | .untilOne :: rest => inRegion rest

/-- The interrupt enable the host set: `IRQ_EN`, or, inside a region, its saved copy (10_state.md R22). -/
def hostIrq (s : State) : Bool := if inRegion s.pending then s.irqSaved else s.irqEn

/-- The registers the host can read (10_state.md R29), `BUSY` and the constants apart, and the result bit it was handed
(30_encoding.md R107). -/
structure DataRegs where
  rom : Vector Byte 8
  sp : Vector Byte 9
  tempRaw : BitVec 16
  th : Byte
  tl : Byte
  res : Nat
  detected : Bool
  parasite : Bool
  alarm : Bool
  rb : Option Bool
deriving DecidableEq, Repr

/-- The host-readable registers of a state, and `RB`. -/
def State.data (s : State) : DataRegs where
  rom := s.rom
  sp := s.sp
  tempRaw := s.tempRaw
  th := s.th
  tl := s.tl
  res := s.res
  detected := s.detected
  parasite := s.parasite
  alarm := s.alarm
  rb := s.rb

/-- An operation started in `s` with `BUSY = 0` has ended in `t`, after `k` samples and the events `evs`: everything but
the host-readable registers, the host's reply and the registers that mean nothing while `BUSY = 0` (`CUR_OP`, `BIT_IDX`,
`SHIFT`, the pseudocode's local variables; 10_state.md R27, U16). -/
structure Ended (s t : State) (k : Nat) (evs : List Event) : Prop where
  busy : t.busy = false
  pending : t.pending = []
  dir : t.dir = .out
  lvl : t.lvl = true
  irqEn : t.irqEn = s.irqEn
  irqSaved : t.irqSaved = s.irqEn
  trace : t.trace = s.trace ++ evs
  line : t.line = s.line.drop k
  draws : t.draws = s.draws + k
  cfg : t.cfg = s.cfg
  inbox : t.inbox = s.inbox
  freeUsed : t.freeUsed = s.freeUsed + 1

/-- `k` steps of the machine, up to the first stop: `Host.Core.run` of the core, with the state type written out. -/
def runMachine : Nat → State → Host.Outcome State Fault Refusal
  | 0, s => .next s
  | k + 1, s =>
    match step s with
    | .next t => runMachine k t
    | .fault r => .fault r
    | .refused r => .refused r

end Sys2Proof.Machine
end

