-- ==== Sys2Proof/Certificates/Slice0/Obligations.lean ====
section
/-! DEFINITION. The statements about the model. `Ended s t k evs` (Safety) says of an operation started in `s` and ended in
`t` everything but the host-readable registers and `RB`, which a statement gives as `t.data`, and the host's reply; `s.answer k` is
the environment's answer to the `k`-th sample from `s` on. What `CUR_OP`, `BIT_IDX`, `SHIFT` and the pseudocode's local
variables hold while `BUSY = 0` is meaningless (10_state.md R27, U16) and no statement says it. Where a statement gives
`detected := !s1 && s2` it rests on 40_timeslot_primitives.md R132, whose rows for `s1 = s2 = 0` and `s1 = 1, s2 = 0` are
the spec's own reading (92_eei_decisions.md D3; notes/assumptions/12.md); the masked regions of reads and of single slots,
the leading reset of the ROM operations and the content of INIT are its decisions D9, D11 and D12 (the same log entry). -/

open Sys2Proof Sys2Proof.Machine

/-! ### Reset, invariants, the machine as a whole -/

/-- Hardware reset in any state (70_reset_and_hazards.md R290, R291): the values R290 gives, `IRQ_EN` untouched, no
trace event; after it the block waits; `State.reset` has the same values. -/
def Obligations.HardwareResetForcesResetValues : Prop :=
  let valuesOfR290 : State → Prop := fun t =>
    t.dir = .out ∧ t.lvl = true ∧ t.busy = false ∧ t.pending = [] ∧ t.detected = false ∧ t.parasite = false ∧
    t.alarm = false ∧ (∀ k : Fin 8, t.rom[k] = 0x00#8) ∧ (∀ k : Fin 9, t.sp[k] = 0x00#8) ∧ t.tempRaw = 0#16 ∧
    t.th = 0#8 ∧ t.tl = 0#8 ∧ t.res = 12 ∧ t.irqSaved = false ∧
    readReg t .capCrc = .flag false ∧ readReg t .capSearch = .flag false
  valuesOfR290 State.reset ∧
  ∀ (s : State) (rest : List Stimulus), s.inbox = .hwReset :: rest →
    ∃ t, step s = .next t ∧ valuesOfR290 t ∧ t.irqEn = s.irqEn ∧ t.trace = s.trace ∧ t.inbox = rest ∧
      (rest = [] → step t = .next t)

/-- The invariant of 10_state.md R31 holds at reset. -/
def Obligations.InvariantHoldsAtReset : Prop := Inv State.reset

/-- Every step keeps the invariant (10_state.md R31), whatever the host does. -/
def Obligations.StepKeepsInvariant : Prop :=
  ∀ s t : State, Inv s → step s = .next t → Inv t

/-- The interrupt enable the host set survives every step, inside and outside regions (60_exceptions.md R268): only a
host write changes it. A hardware reset in mid-region is the exception the spec names (R291). -/
def Obligations.StepKeepsHostInterruptEnable : Prop :=
  ∀ s t : State, Inv s → step s = .next t → (∀ b rest, s.inbox ≠ .setIrqEn b :: rest) →
    (∀ rest, s.inbox ≠ .hwReset :: rest) → hostIrq t = hostIrq s

/-- No step changes the parameters (00_scope.md R5: "none of them is a run-time register"). -/
def Obligations.StepNeverChangesParameters : Prop :=
  ∀ s t : State, step s = .next t → t.cfg = s.cfg

/-- No step samples the line while the block drives it (00_scope.md R7, R10): in what a step adds to the trace each sample
comes after a release with no drive of the line between, counted from the `DIR` the step begins with. -/
def Obligations.SamplesOnlyWhileReleased : Prop :=
  ∀ s t : State, Inv s → step s = .next t →
    ∃ evs, t.trace = s.trace ++ evs ∧ Trace.samplesReleased (s.dir == .inp) evs = true

/-- No operation faults or is without a meaning (60_exceptions.md R260); a step stops in one case only, a host write of
`IRQ_EN` while `BUSY = 1` (93_implementation_defined.md U13). That a refused start (`BUSY = 1`, a byte count outside 1..4)
is a next state too is the model's form (notes/assumptions/3.md); the spec says "a model refuses them" (R260). -/
def Obligations.StepStopsOnlyOnBusyInterruptWrite : Prop :=
  (∀ (i : Instr) (s : State), ∃ t, exec i s = .next t) ∧
  ∀ s : State, (∃ t, step s = .next t) ∨
    (s.busy = true ∧ (∃ b rest, s.inbox = .setIrqEn b :: rest) ∧ step s = .fault .irqEnWrittenWhileBusy)

/-! ### The host port -/

/-- A command word that decodes runs its operation (the inbox moves on, nothing else is added around `exec`). -/
def Obligations.StepRunsDecodedOperation : Prop :=
  ∀ (s : State) (command : List Byte) (rest : List Stimulus) (i : Instr), s.inbox = .start command :: rest →
    decode command = .ok i → step s = exec i { s with inbox := rest }

/-- With nothing from the host, the operation in progress goes on, and an idle block does nothing. That such a step runs
all the pending sequencer steps, up to a completion poll that answered 0, is the model's grain, which 00_scope.md R9 leaves
open (notes/assumptions/1.md, notes/assumptions/5.md). -/
def Obligations.StepWithoutStimulus : Prop :=
  ∀ s : State, s.inbox = [] →
    step s = .next (runSteps s.pending s) ∧ (s.busy = false → Inv s → step s = .next s)

/-- A command code other than the sixteen is refused: no line activity, no state change (30_encoding.md R108 (b)). -/
def Obligations.ReservedCodeRefused : Prop :=
  ∀ (s : State) (c : Byte) (operands : List Byte) (rest : List Stimulus),
    c ∉ [0x33#8, 0x55#8, 0xCC#8, 0xEC#8, 0x44#8, 0x4E#8, 0xBE#8, 0x48#8, 0xB8#8, 0xB4#8, 0x01#8, 0x02#8, 0x03#8,
      0x04#8, 0x05#8, 0x06#8] →
    s.inbox = .start (c :: operands) :: rest →
    step s = .next { s with inbox := rest, reply := .refusedStart (.badCommand (.reservedCode c)) }

/-- A start while `BUSY = 1` is refused (70_reset_and_hazards.md R300), for every operation and by either kind of start:
no effect on state, line or the operation in progress. -/
def Obligations.BusyStartRefused : Prop :=
  ∀ (i : Instr) (s : State), s.busy = true →
    exec i s = .next { s with reply := .refusedStart .busy } ∧
    ∀ (command : List Byte) (rest : List Stimulus), decode command = .ok i → s.inbox = .accept command :: rest →
      step s = .next { s with inbox := rest, reply := .refusedStart .busy }

/-- WRITE_BYTES with `n` outside 1..4 is refused (41_byte_framer.md R169). -/
def Obligations.ByteCountRefused : Prop :=
  ∀ (v : BitVec 32) (n : Int) (s : State), s.busy = false → s.cfg.wf = true → n < 1 ∨ 4 < n →
    exec (.writeBytes v n) s = .next { s with reply := .refusedStart .byteCount }

/-- The host's read port (10_state.md R29, 20_memory.md R67), register by register: a read returns the register as it
stands, the capability constants 0, and changes nothing else; a register that the operation in progress writes reads as an
unspecified value of its kind. `BUSY` and the capability constants are written by no operation, so they read as they stand
at any time; for `BUSY` that is read from R266 (notes/assumptions/13.md). -/
def Obligations.HostReadReturnsRegister : Prop :=
  ∀ (s : State) (r : HostReg) (rest : List Stimulus), s.inbox = .read r :: rest →
    let value : HostValue := match r with
      | .rom k => .byte s.rom[k]
      | .sp k => .byte s.sp[k]
      | .tempRaw => .word s.tempRaw
      | .th => .byte s.th
      | .tl => .byte s.tl
      | .res => .number s.res
      | .detected => .flag s.detected
      | .parasite => .flag s.parasite
      | .alarm => .flag s.alarm
      | .busy => .flag s.busy
      | .capCrc => .flag false
      | .capSearch => .flag false
    let writtenNow : Prop := s.busy = true ∧ match r with
      | .rom _ => s.curOp = .readRom ∨ s.curOp = .init
      | .sp _ | .tempRaw | .th | .tl | .res => s.curOp = .readScratchpad ∨ s.curOp = .init
      | .detected => s.curOp ≠ .write0 ∧ s.curOp ≠ .write1 ∧ s.curOp ≠ .readbit ∧ ∀ v n, s.curOp ≠ .writeBytes v n
      | .parasite => s.curOp = .readPowerSupply ∨ s.curOp = .init
      | .alarm => s.curOp = .alarmSearch
      | .busy | .capCrc | .capSearch => False
    (¬ writtenNow → step s = .next { s with inbox := rest, reply := .value value }) ∧
    (writtenNow → ∃ v, step s = .next { s with inbox := rest, reply := .value v, freeUsed := s.freeUsed + 1 } ∧
      match r with
      | .rom _ | .sp _ | .th | .tl => ∃ b, v = .byte b
      | .tempRaw => ∃ w, v = .word w
      | .res => ∃ n, v = .number n
      | .detected | .parasite | .alarm | .busy | .capCrc | .capSearch => ∃ b, v = .flag b)

/-- The host changes `IRQ_EN` only while `BUSY = 0` (10_state.md R22); a write while `BUSY = 1` is a fault (U13). -/
def Obligations.HostInterruptWrite : Prop :=
  ∀ (s : State) (b : Bool) (rest : List Stimulus), s.inbox = .setIrqEn b :: rest →
    (s.busy = false → step s = .next { s with inbox := rest, irqEn := b }) ∧
    (s.busy = true → step s = .fault .irqEnWrittenWhileBusy)

/-! ### Encoding -/

/-- The decoder reads back every encoded operation whose operands the command word can carry, whatever follows it. -/
def Obligations.DecodeOfEncode : Prop :=
  ∀ (i : Instr) (rest : List Byte), i.encodable = true → decode (encode i ++ rest) = .ok i

/-- Every command word that decodes is the encoding of what it decodes to, with unused bytes after it. -/
def Obligations.EncodeOfDecode : Prop :=
  ∀ (command : List Byte) (i : Instr), decode command = .ok i →
    i.encodable = true ∧ ∃ rest, command = encode i ++ rest

/-- The sixteen codes of 30_encoding.md R106, as words. The operand bytes of 4E and 05 stand in the model's own layout
(notes/assumptions/4.md). -/
def Obligations.CommandWordsDecode : Prop :=
  decode [0x01#8] = .ok .reset ∧ decode [0x02#8] = .ok .write0 ∧ decode [0x03#8] = .ok .write1 ∧
  decode [0x04#8] = .ok .readbit ∧ decode [0x06#8] = .ok .init ∧ decode [0x33#8] = .ok .readRom ∧
  decode [0x55#8] = .ok .matchRom ∧ decode [0xCC#8] = .ok .skipRom ∧ decode [0xEC#8] = .ok .alarmSearch ∧
  decode [0x44#8] = .ok .convertT ∧ decode [0xBE#8] = .ok .readScratchpad ∧ decode [0x48#8] = .ok .copyScratchpad ∧
  decode [0xB8#8] = .ok .recallE2 ∧ decode [0xB4#8] = .ok .readPowerSupply ∧
  decode [0x4E#8, 0x19#8, 0xF6#8, 0x0A#8, 0x00#8, 0x00#8, 0x00#8] = .ok (.writeScratchpad (u8 25) (u8 (-10)) 10) ∧
  decode [0x05#8, 0xBE#8, 0x00#8, 0x00#8, 0x00#8, 0x01#8, 0x00#8, 0x00#8, 0x00#8] = .ok (.writeBytes 0xBE#32 1)

/-! ### Primitives -/

/-- The eight primitives of 00_scope.md R7, as steps of an operation in progress: the effect on the state and the trace
event of each. R7 makes a sample legal only while `DIR = IN`; that one at `DIR = OUT`, which no rule produces, would take an
answer like any other is the model's choice (notes/assumptions/16.md), not the table's. -/
def Obligations.PrimitiveEffects : Prop :=
  ∀ (s : State) (rest : List Micro) (x : Latch) (n : Nat),
    (s.pending = .prim .lineOutLow :: rest →
      tick s = { s with pending := rest, dir := .out, lvl := false, trace := s.trace ++ [.low] }) ∧
    (s.pending = .prim .lineOutHigh :: rest →
      tick s = { s with pending := rest, dir := .out, lvl := true, trace := s.trace ++ [.high] }) ∧
    (s.pending = .prim .lineRelease :: rest →
      tick s = { s with pending := rest, dir := .inp, trace := s.trace ++ [.release] }) ∧
    (s.pending = .prim (.lineSample x) :: rest →
      ∃ t, tick s = t ∧ t.trace = s.trace ++ [.sample (s.answer 0)] ∧ (∀ k, t.answer k = s.answer (k + 1)) ∧
        t = { s with
          pending := rest, trace := t.trace, line := t.line, draws := t.draws,
          latchS1 := if x = .s1 then s.answer 0 else s.latchS1,
          latchS2 := if x = .s2 then s.answer 0 else s.latchS2,
          latchB := if x = .b then s.answer 0 else s.latchB }) ∧
    (s.pending = .prim (.waitUs n) :: rest → tick s = { s with pending := rest, trace := s.trace ++ [.waitUs n] }) ∧
    (s.pending = .prim (.waitMs n) :: rest → tick s = { s with pending := rest, trace := s.trace ++ [.waitMs n] }) ∧
    (s.pending = .prim .maskEnter :: rest →
      tick s = { s with pending := rest, irqSaved := s.irqEn, irqEn := false, trace := s.trace ++ [.mask] }) ∧
    (s.pending = .prim .maskExit :: rest →
      tick s = { s with pending := rest, irqEn := s.irqSaved, trace := s.trace ++ [.unmask] })

/-- The two grains of 00_scope.md R9 agree: an accepted operation that performs one sequencer step per step of the
machine comes, after some number of them, to the state in which the same operation leaves the machine when it runs in
one step. -/
def Obligations.PrimitiveRunEqualsOperation : Prop :=
  ∀ (command : List Byte) (i : Instr) (s : State), decode command = .ok i →
    ∃ (n : Nat) (t : State), exec i { s with inbox := [] } = .next t ∧
      runMachine (n + 1) { s with inbox := .accept command :: List.replicate n .tick } = .next t

/-! ### Time-slot layer -/

/-- RESET (40_timeslot_primitives.md R137, R131): the waveform and `DETECTED`, by the four cases of R132. -/
def Obligations.ResetRuns : Prop :=
  ∀ s : State, s.busy = false →
    ∃ t, exec .reset s = .next t ∧ t.reply = .accepted ∧ Ended s t 2 (Trace.rst s.cfg (s.answer 0) (s.answer 1)) ∧
      t.data = { s.data with detected := t.detected } ∧
      (t.detected = true ↔ s.answer 0 = false ∧ s.answer 1 = true)

/-- WRITE0 and WRITE1 (40_timeslot_primitives.md R138, R134, R135): the slot in its own region, nothing else. -/
def Obligations.WriteSlotsRun : Prop :=
  ∀ s : State, s.busy = false →
    (∃ t, exec .write0 s = .next t ∧ t.reply = .accepted ∧ t.data = s.data ∧
      Ended s t 0 [.mask, .low, .waitUs s.cfg.tW0l, .high, .waitUs s.cfg.tRec, .unmask]) ∧
    (∃ t, exec .write1 s = .next t ∧ t.reply = .accepted ∧ t.data = s.data ∧
      Ended s t 0 [.mask, .low, .waitUs s.cfg.tW1l, .high, .waitUs s.cfg.tW1h, .unmask])

/-- READBIT (40_timeslot_primitives.md R140; R136, R166): one read slot in its own region; `RB` is the sampled bit. -/
def Obligations.ReadbitRuns : Prop :=
  ∀ s : State, s.busy = false →
    ∃ t, exec .readbit s = .next t ∧ t.reply = .accepted ∧ t.data = { s.data with rb := some (s.answer 0) } ∧
      Ended s t 1 [.mask, .low, .waitUs s.cfg.tRdl, .release, .waitUs s.cfg.tRds, .sample (s.answer 0),
        .waitUs s.cfg.tRdRest, .high, .unmask]

/-- A device that keeps the presence contract of 40_timeslot_primitives.md R139 is detected, whatever the start and the
length of its pulse within the stated ranges; with no device the flag is 0. -/
def Obligations.PresencePulseDetected : Prop :=
  ∀ (s : State) (start hold : Nat), s.busy = false → s.cfg.wf = true → 15 ≤ start → start ≤ 60 → 60 ≤ hold →
    hold ≤ 240 →
    let pulledLow : Nat → Bool := fun x => decide (start ≤ x) && decide (x < start + hold)
    (s.answer 0 = !pulledLow s.cfg.tPds → s.answer 1 = !pulledLow (s.cfg.tPds + s.cfg.tRsthRest) →
      ∃ t, exec .reset s = .next t ∧ t.detected = true) ∧
    (s.answer 0 = true → s.answer 1 = true → ∃ t, exec .reset s = .next t ∧ t.detected = false)

/-! ### Byte framer -/

/-- WRITE_BYTES(v, n), `n` of 1..4 (41_byte_framer.md R160, R169): one region of `8n` slots, bit 0 of `v` first. -/
def Obligations.WriteBytesRuns : Prop :=
  ∀ (v : BitVec 32) (n : Nat) (s : State), s.busy = false → s.cfg.wf = true → 1 ≤ n → n ≤ 4 →
    ∃ t, exec (.writeBytes v n) s = .next t ∧ t.reply = .accepted ∧ t.data = s.data ∧
      Ended s t 0 (.mask :: (List.range (8 * n)).flatMap
        (fun k => if v.getLsbD k then [.low, .waitUs s.cfg.tW1l, .high, .waitUs s.cfg.tW1h]
          else [.low, .waitUs s.cfg.tW0l, .high, .waitUs s.cfg.tRec]) ++ [.unmask])

/-- Bit routing (41_byte_framer.md R161): exactly `8n` slots whose low times are those of the bits of `v`, LSB first. -/
def Obligations.FramerLowTimes : Prop :=
  ∀ (v : BitVec 32) (n : Nat) (s : State), s.busy = false → s.cfg.wf = true → 1 ≤ n → n ≤ 4 →
    ∃ t evs, exec (.writeBytes v n) s = .next t ∧ t.trace = s.trace ++ evs ∧
      Trace.lowTimes evs = (List.range (8 * n)).map fun k => if v.getLsbD k then s.cfg.tW1l else s.cfg.tW0l

/-! ### ROM commands -/

/-- READ_ROM (42_rom_commands.md R181): `RST W(33) R*64`; bit `k mod 8` of `ROM[k div 8]` is the `k`-th bit received. -/
def Obligations.ReadRomRuns : Prop :=
  ∀ s : State, s.busy = false → s.cfg.wf = true →
    ∃ t, exec .readRom s = .next t ∧ t.reply = .accepted ∧
      Ended s t 66 (Trace.rst s.cfg (s.answer 0) (s.answer 1) ++ Trace.w s.cfg 0x33#8 ++
        Trace.bits s.cfg 64 fun k => s.answer (2 + k)) ∧
      t.data = { s.data with detected := !s.answer 0 && s.answer 1, rom := t.rom } ∧
      ∀ (j : Fin 8) (i : Nat), i < 8 → t.rom[j].getLsbD i = s.answer (2 + (8 * j + i))

/-- MATCH_ROM (42_rom_commands.md R182): `RST W(55) W(ROM[0]) .. W(ROM[7])`. -/
def Obligations.MatchRomRuns : Prop :=
  ∀ s : State, s.busy = false →
    ∃ t, exec .matchRom s = .next t ∧ t.reply = .accepted ∧
      Ended s t 2 (Trace.rst s.cfg (s.answer 0) (s.answer 1) ++ Trace.w s.cfg 0x55#8 ++
        Trace.w s.cfg s.rom[0] ++ Trace.w s.cfg s.rom[1] ++ Trace.w s.cfg s.rom[2] ++ Trace.w s.cfg s.rom[3] ++
        Trace.w s.cfg s.rom[4] ++ Trace.w s.cfg s.rom[5] ++ Trace.w s.cfg s.rom[6] ++ Trace.w s.cfg s.rom[7]) ∧
      t.data = { s.data with detected := !s.answer 0 && s.answer 1 }

/-- SKIP_ROM (42_rom_commands.md R183): `RST W(CC)`. -/
def Obligations.SkipRomRuns : Prop :=
  ∀ s : State, s.busy = false →
    ∃ t, exec .skipRom s = .next t ∧ t.reply = .accepted ∧
      Ended s t 2 (Trace.rst s.cfg (s.answer 0) (s.answer 1) ++ Trace.w s.cfg 0xCC#8) ∧
      t.data = { s.data with detected := !s.answer 0 && s.answer 1 }

/-- ALARM_SEARCH (42_rom_commands.md R184): `RST W(EC) R*1`, `ALARM <- (b == 0)`. -/
def Obligations.AlarmSearchRuns : Prop :=
  ∀ s : State, s.busy = false →
    ∃ t, exec .alarmSearch s = .next t ∧ t.reply = .accepted ∧
      Ended s t 3 (Trace.rst s.cfg (s.answer 0) (s.answer 1) ++ Trace.w s.cfg 0xEC#8 ++
        Trace.bit1 s.cfg (s.answer 2)) ∧
      t.data = { s.data with detected := !s.answer 0 && s.answer 1, alarm := !s.answer 2 }

/-- After READ_ROM, MATCH_ROM puts on the line, after its reset pulse and opcode, the same 64 bits READ_ROM sampled, in
the same order, told by the low times of the slots (42_rom_commands.md R182). -/
def Obligations.MatchRomSendsTheBitsRead : Prop :=
  ∀ s t : State, s.busy = false → s.cfg.wf = true → exec .readRom s = .next t →
    ∃ u evs, exec .matchRom t = .next u ∧ u.trace = t.trace ++ evs ∧
      Trace.lowTimes evs = s.cfg.tRstl ::
        ([true, false, true, false, true, false, true, false] ++ (List.range 64).map fun k => s.answer (2 + k)).map
          fun b => if b then s.cfg.tW1l else s.cfg.tW0l

/-! ### Function commands -/

/-- CONVERT_T on parasite power (43_function_commands.md R201, R202): the prologue, then one wait of `800 / 2^(12 - RES)`
milliseconds and no read slot. For a base that the power of two does not divide, and for a `RES` outside 9..12, the rounded
quotient is the model's choice (notes/assumptions/22.md). -/
def Obligations.ConvertTParasiteRuns : Prop :=
  ∀ s : State, s.busy = false → s.parasite = true →
    ∃ t, exec .convertT s = .next t ∧ t.reply = .accepted ∧
      Ended s t 2 (Trace.prologue s.cfg (s.answer 0) (s.answer 1) 0x44#8 ++
        [.waitMs (s.cfg.tConvBaseMs / 2 ^ (12 - s.res))]) ∧
      t.data = { s.data with detected := !s.answer 0 && s.answer 1 }

/-- The conversion wait (43_function_commands.md R202): 800, 400, 200, 100 ms for 12, 11, 10, 9 bits, as the trace of
CONVERT_T on parasite power shows it. -/
def Obligations.ConversionWaitTable : Prop :=
  ∀ s : State, s.busy = false → s.parasite = true → s.cfg.tConvBaseMs = 800 →
    ∃ t evs, exec .convertT s = .next t ∧ t.trace = s.trace ++ evs ∧
      (s.res = 12 → Trace.totalMs evs = 800) ∧ (s.res = 11 → Trace.totalMs evs = 400) ∧
      (s.res = 10 → Trace.totalMs evs = 200) ∧ (s.res = 9 → Trace.totalMs evs = 100)

/-- CONVERT_T on external power and RECALL_E2 in either power mode (43_function_commands.md R201, R207): when the first 1
among the completion polls is the `k`-th (from 0), `k` further steps after the one that starts the operation end it, with
`k + 1` polls on the line, each in its own region, and no timed wait. -/
def Obligations.PollingEndsAtTheFirstOne : Prop :=
  ∀ (i : Instr) (s : State) (k : Nat), i = .recallE2 ∨ (i = .convertT ∧ s.parasite = false) → s.busy = false →
    s.inbox = [] → (∀ j, j < k → s.answer (2 + j) = false) → s.answer (2 + k) = true →
    ∃ u t, exec i s = .next u ∧ runMachine k u = .next t ∧ t.reply = .accepted ∧
      Ended s t (3 + k) (Trace.prologue s.cfg (s.answer 0) (s.answer 1) i.code ++
        Trace.polls s.cfg (k + 1) fun j => s.answer (2 + j)) ∧
      t.data = { s.data with detected := !s.answer 0 && s.answer 1 }

/-- CONVERT_T and RECALL_E2 complete in the one step that starts them when the first completion poll answers 1
(43_function_commands.md R201, R207). -/
def Obligations.PollingOperationsComplete : Prop :=
  ∀ s : State, s.busy = false → s.answer 2 = true →
    (s.parasite = false → ∃ t, exec .convertT s = .next t ∧ t.reply = .accepted ∧
      Ended s t 3 (Trace.prologue s.cfg (s.answer 0) (s.answer 1) 0x44#8 ++ Trace.bit1 s.cfg true) ∧
      t.data = { s.data with detected := !s.answer 0 && s.answer 1 }) ∧
    (∃ t, exec .recallE2 s = .next t ∧ t.reply = .accepted ∧
      Ended s t 3 (Trace.prologue s.cfg (s.answer 0) (s.answer 1) 0xB8#8 ++ Trace.bit1 s.cfg true) ∧
      t.data = { s.data with detected := !s.answer 0 && s.answer 1 })

/-- The run that never ends (60_exceptions.md R265): while every poll answers 0, after any number of steps `BUSY` is
still 1, `IRQ_EN` is back at its prior value between slots, the line is driven high, every start is refused, and the trace
has one more masked read slot per step. One poll per step is the model's grain (notes/assumptions/1.md), a refused start
as a next state with a reply its form (notes/assumptions/3.md). -/
def Obligations.PollingNeverEnds : Prop :=
  ∀ (i : Instr) (s : State) (n : Nat), i = .recallE2 ∨ (i = .convertT ∧ s.parasite = false) → s.busy = false →
    s.inbox = [] → (∀ j, j ≤ n → s.answer (2 + j) = false) →
    ∃ u t, exec i s = .next u ∧ runMachine n u = .next t ∧ t.busy = true ∧
      t.irqEn = s.irqEn ∧ t.dir = .out ∧ t.lvl = true ∧
      t.data = { s.data with detected := t.detected } ∧
      t.trace = s.trace ++ Trace.prologue s.cfg (s.answer 0) (s.answer 1) i.code ++
        Trace.polls s.cfg (n + 1) (fun _ => false) ∧
      ∀ i' : Instr, exec i' t = .next { t with reply := .refusedStart .busy }

/-- WRITE_SCRATCHPAD (43_function_commands.md R203): the prologue and one region of 24 slots; the block's own `TH`, `TL`,
`RES`, `SP` do not change. The payload is `cfg << 16 | u8(tl) << 8 | u8(th)` with `cfg` of the clamped resolution. -/
def Obligations.WriteScratchpadRuns : Prop :=
  ∀ (th tl : Byte) (res : Int) (s : State), s.busy = false → s.cfg.wf = true →
    let r : Nat := if 9 ≤ res ∧ res ≤ 12 then res.toNat else 12
    let cfg : Byte := (BitVec.ofNat 8 (r - 9) <<< 5) ||| s.cfg.cfgReserved
    ∃ t, exec (.writeScratchpad th tl res) s = .next t ∧ t.reply = .accepted ∧
      Ended s t 2 (Trace.prologue s.cfg (s.answer 0) (s.answer 1) 0x4E#8 ++
        Trace.bytes s.cfg ((cfg.setWidth 32 <<< 16) ||| (tl.setWidth 32 <<< 8) ||| th.setWidth 32) 3) ∧
      t.data = { s.data with detected := !s.answer 0 && s.answer 1 }

/-- The payload goes out byte by byte: `th`, `tl`, the configuration byte, each least significant bit first, told by the
low times of the 24 slots after those of the prologue (30_encoding.md R98). -/
def Obligations.ScratchpadPayloadOnTheLine : Prop :=
  ∀ (th tl : Byte) (res : Int) (s : State), s.busy = false →
    ∃ t evs pre, exec (.writeScratchpad th tl res) s = .next t ∧ t.trace = s.trace ++ evs ∧ pre.length = 17 ∧
      Trace.lowTimes evs = pre ++ ([th, tl, configByte s.cfg res].flatMap fun b => (List.range 8).map b.getLsbD).map
        fun b => if b then s.cfg.tW1l else s.cfg.tW0l

/-- The resolution clamp (43_function_commands.md R204; 30_encoding.md R100): with `CFG_RESERVED = 0x1F` the four legal
resolutions give 0x1F, 0x3F, 0x5F, 0x7F and every other integer gives 0x7F. That value of `CFG_RESERVED` is PRESUMED
(notes/assumptions/9.md). -/
def Obligations.ResolutionClamp : Prop :=
  ∀ (c : Params) (res : Int), c.wf = true → c.cfgReserved = 0x1F#8 →
    (res = 9 → configByte c res = 0x1F#8) ∧ (res = 10 → configByte c res = 0x3F#8) ∧
    (res = 11 → configByte c res = 0x5F#8) ∧ (res = 12 → configByte c res = 0x7F#8) ∧
    (res < 9 ∨ 12 < res → configByte c res = 0x7F#8)

/-- The configuration byte, for any reserved pattern (30_encoding.md R99): bits 6..5 hold `res - 9` of the clamped
resolution, every other bit is the pattern's, the same for every resolution. -/
def Obligations.ConfigByteFields : Prop :=
  ∀ (c : Params) (res : Int), c.wf = true →
    let r : Nat := if 9 ≤ res ∧ res ≤ 12 then res.toNat else 12
    ((configByte c res).extractLsb' 5 2).toNat = r - 9 ∧
    ∀ k, k < 8 → k ≠ 5 → k ≠ 6 → (configByte c res).getLsbD k = c.cfgReserved.getLsbD k

/-- READ_SCRATCHPAD (43_function_commands.md R205; 44_decode_power_init.md R240 to R243): `RST W(CC) W(BE) R*72`; `SP` is
what was received, and the decoded registers are the decode of `SP[0..4]`. -/
def Obligations.ReadScratchpadRuns : Prop :=
  ∀ s : State, s.busy = false → s.cfg.wf = true →
    ∃ t, exec .readScratchpad s = .next t ∧ t.reply = .accepted ∧
      Ended s t 74 (Trace.prologue s.cfg (s.answer 0) (s.answer 1) 0xBE#8 ++
        Trace.bits s.cfg 72 fun k => s.answer (2 + k)) ∧
      (∀ (j : Fin 9) (i : Nat), i < 8 → t.sp[j].getLsbD i = s.answer (2 + (8 * j + i))) ∧
      t.data = { s.data with
        detected := !s.answer 0 && s.answer 1, sp := t.sp, tempRaw := t.sp[1] ++ t.sp[0], th := t.sp[2],
        tl := t.sp[3],
        res := if t.sp[4] &&& 0x9F#8 = s.cfg.cfgReserved then 9 + t.sp[4].toNat / 32 % 4 else 12 }

/-- The decoded values as integers (44_decode_power_init.md R242, R243): the thresholds are the signed bytes, the inverse of
the `u8` encoding of WRITE_SCRATCHPAD; `TEMP_RAW` is the signed 16-bit word `SP[1] :: SP[0]`. -/
def Obligations.DecodedValuesAreSigned : Prop :=
  ∀ s : State, s.busy = false → s.cfg.wf = true → ∃ t, exec .readScratchpad s = .next t ∧
    t.th.toInt = (if t.sp[2].toNat < 128 then (t.sp[2].toNat : Int) else (t.sp[2].toNat : Int) - 256) ∧
    t.tl.toInt = (if t.sp[3].toNat < 128 then (t.sp[3].toNat : Int) else (t.sp[3].toNat : Int) - 256) ∧
    (let word : Nat := t.sp[1].toNat * 256 + t.sp[0].toNat
     t.tempRaw.toInt = if word < 32768 then (word : Int) else (word : Int) - 65536) ∧
    (∀ x : Int, -128 ≤ x → x ≤ 127 → (t.sp[2] = u8 x → t.th.toInt = x) ∧ (t.sp[3] = u8 x → t.tl.toInt = x)) ∧
    u8 (-10) = 0xF6#8

/-- The temperature is exactly `TEMP_RAW / 16`, a multiple of 0.0625 in -2048.0 .. 2047.9375
(44_decode_power_init.md R244). -/
def Obligations.TemperatureIsExact : Prop :=
  ∀ s : State, s.temp * 16 = s.tempRaw.toInt ∧ -2048 ≤ s.temp ∧ s.temp ≤ 2047 + 15 / 16

/-- A scratchpad or ROM read leaves in its buffer, and in the registers decoded from it, what the device answers, whatever
stood there before (20_memory.md R67, R68: the idempotence property). -/
def Obligations.ReadsDependOnAnswersOnly : Prop :=
  ∀ s s' : State, s.busy = false → s'.busy = false → s.cfg = s'.cfg → s.cfg.wf = true → (∀ k, k < 74 → s.answer k = s'.answer k) →
    (∃ t t', exec .readScratchpad s = .next t ∧ exec .readScratchpad s' = .next t' ∧ t.sp = t'.sp ∧
      t.tempRaw = t'.tempRaw ∧ t.th = t'.th ∧ t.tl = t'.tl ∧ t.res = t'.res) ∧
    (∃ t t', exec .readRom s = .next t ∧ exec .readRom s' = .next t' ∧ t.rom = t'.rom)

/-- Round trip of the settings (43_function_commands.md R203, R204; 44_decode_power_init.md R241, R242): a device that
returns, as bytes 2 to 4 of the scratchpad, the bits of the payload WRITE_SCRATCHPAD sends is read back as the same
thresholds and the clamped resolution. -/
def Obligations.ScratchpadRoundTrip : Prop :=
  ∀ (th tl : Byte) (res : Int) (s : State), s.busy = false → s.cfg.wf = true →
    (∀ k, k < 24 → s.answer (18 + k) = (scratchpadPayload s.cfg th tl res).getLsbD k) →
    ∃ t, exec .readScratchpad s = .next t ∧ t.th = th ∧ t.tl = tl ∧
      t.res = if 9 ≤ res ∧ res ≤ 12 then res.toNat else 12

/-- COPY_SCRATCHPAD (43_function_commands.md R206): on parasite power the fixed wait, otherwise nothing after the
opcode. -/
def Obligations.CopyScratchpadRuns : Prop :=
  ∀ s : State, s.busy = false →
    ∃ t, exec .copyScratchpad s = .next t ∧ t.reply = .accepted ∧
      Ended s t 2 (Trace.prologue s.cfg (s.answer 0) (s.answer 1) 0x48#8 ++
        (if s.parasite then [.waitMs s.cfg.tCopyMs] else [])) ∧
      t.data = { s.data with detected := !s.answer 0 && s.answer 1 }

/-- READ_POWER_SUPPLY (43_function_commands.md R208): `RST W(CC) W(B4) R*1`, `PARASITE <- (b == 0)`. -/
def Obligations.ReadPowerSupplyRuns : Prop :=
  ∀ s : State, s.busy = false →
    ∃ t, exec .readPowerSupply s = .next t ∧ t.reply = .accepted ∧
      Ended s t 3 (Trace.prologue s.cfg (s.answer 0) (s.answer 1) 0xB4#8 ++ Trace.bit1 s.cfg (s.answer 2)) ∧
      t.data = { s.data with detected := !s.answer 0 && s.answer 1, parasite := !s.answer 2 }

/-! ### Construction -/

/-- INIT (44_decode_power_init.md R248): three transactions in one operation; `DETECTED` is that of the last reset. -/
def Obligations.InitRuns : Prop :=
  ∀ s : State, s.busy = false → s.cfg.wf = true →
    ∃ t, exec .init s = .next t ∧ t.reply = .accepted ∧
      Ended s t 143 (Trace.prologue s.cfg (s.answer 0) (s.answer 1) 0xB4#8 ++ Trace.bit1 s.cfg (s.answer 2) ++
        Trace.prologue s.cfg (s.answer 3) (s.answer 4) 0xBE#8 ++ (Trace.bits s.cfg 72 fun k => s.answer (5 + k)) ++
        Trace.rst s.cfg (s.answer 77) (s.answer 78) ++ Trace.w s.cfg 0x33#8 ++
        Trace.bits s.cfg 64 fun k => s.answer (79 + k)) ∧
      (∀ (j : Fin 9) (i : Nat), i < 8 → t.sp[j].getLsbD i = s.answer (5 + (8 * j + i))) ∧
      (∀ (j : Fin 8) (i : Nat), i < 8 → t.rom[j].getLsbD i = s.answer (79 + (8 * j + i))) ∧
      t.data = { s.data with
        detected := !s.answer 77 && s.answer 78, parasite := !s.answer 2, rom := t.rom, sp := t.sp,
        tempRaw := t.sp[1] ++ t.sp[0], th := t.sp[2], tl := t.sp[3],
        res := if t.sp[4] &&& 0x9F#8 = s.cfg.cfgReserved then 9 + t.sp[4].toNat / 32 % 4 else 12 }

/-- INIT with nothing attached (44_decode_power_init.md R248, corner case): every sample is 1. -/
def Obligations.InitWithNoDevice : Prop :=
  ∀ s : State, s.busy = false → s.cfg.wf = true → (∀ k, k < 143 → s.answer k = true) →
    ∃ t, exec .init s = .next t ∧ t.detected = false ∧ t.parasite = false ∧ (∀ k : Fin 9, t.sp[k] = 0xFF#8) ∧
      (∀ k : Fin 8, t.rom[k] = 0xFF#8) ∧ t.tempRaw.toInt = -1 ∧ t.th.toInt = -1 ∧ t.tl.toInt = -1 ∧ t.res = 12

/-! ### Whole-machine rules -/

/-- Each host-readable register is written by the operations the rules name and by no other (10_state.md R23 to R26;
42_rom_commands.md R187), and `RB` is handed to the host by READBIT alone (40_timeslot_primitives.md R140). -/
def Obligations.OnlyTheNamedOperationsWrite : Prop :=
  ∀ (i : Instr) (s t : State), exec i s = .next t →
    (i ≠ .readRom → i ≠ .init → t.rom = s.rom) ∧
    (i ≠ .readScratchpad → i ≠ .init →
      t.sp = s.sp ∧ t.tempRaw = s.tempRaw ∧ t.th = s.th ∧ t.tl = s.tl ∧ t.res = s.res) ∧
    (i ≠ .readPowerSupply → i ≠ .init → t.parasite = s.parasite) ∧
    (i ≠ .alarmSearch → t.alarm = s.alarm) ∧
    (i = .write0 ∨ i = .write1 ∨ i = .readbit ∨ (∃ v n, i = .writeBytes v n) → t.detected = s.detected) ∧
    (i ≠ .readbit → t.rb = s.rb)

/-- No operation reads `DETECTED` (60_exceptions.md R262): two runs that differ in it alone have the same trace and end
in states that differ in it alone at most. -/
def Obligations.DetectedIsNeverRead : Prop :=
  ∀ (i : Instr) (s t : State) (d : Bool), exec i s = .next t →
    ∃ t', exec i { s with detected := d } = .next t' ∧ { t' with detected := t.detected } = t

/-- The nominal durations of 70_reset_and_hazards.md R320, with the parameter values of 00_scope.md R5: the sums of the
`Wu` and `Wm` arguments of each trace. The wait of CONVERT_T for a `RES` outside 9..12, which no rule produces, is the
model's choice (notes/assumptions/22.md). -/
def Obligations.NominalDurations : Prop :=
  let c : Params := {}
  Trace.totalUs (Trace.w0 c) = 68 ∧ Trace.totalUs (Trace.w1 c) = 68 ∧ (∀ b, Trace.totalUs (Trace.r c b) = 68) ∧
  (∀ x, Trace.totalUs (Trace.w c x) = 544) ∧ (∀ s1 s2, Trace.totalUs (Trace.rst c s1 s2) = 1030) ∧
  (∀ s1 s2 op, Trace.totalUs (Trace.prologue c s1 s2 op) = 2118) ∧
  ∀ s : State, s.busy = false → s.cfg = c →
    let takes : Instr → Nat → Nat → Prop := fun i us ms =>
      ∃ t evs, exec i s = .next t ∧ t.trace = s.trace ++ evs ∧ Trace.totalUs evs = us ∧ Trace.totalMs evs = ms
    takes .reset 1030 0 ∧ takes .skipRom 1574 0 ∧ takes .readRom 5926 0 ∧ takes .matchRom 5926 0 ∧
    takes .alarmSearch 1642 0 ∧ takes .readPowerSupply 2186 0 ∧ takes .readScratchpad 7014 0 ∧
    (∀ th tl res, takes (.writeScratchpad th tl res) 3750 0) ∧
    takes .copyScratchpad 2118 (if s.parasite then 12 else 0) ∧
    (s.parasite = true → takes .convertT 2118 (800 / 2 ^ (12 - s.res))) ∧
    (∀ k f, Trace.totalUs (Trace.prologue c (s.answer 0) (s.answer 1) 0x44#8 ++ Trace.polls c k f) = 2118 + k * 68) ∧
    takes .init 15126 0

/-- A start while `BUSY = 1` does not disturb the operation in progress (70_reset_and_hazards.md R300): after any number of
further sequencer steps the state is the one without that start, the result bit handed to the host included, but for the
reply, which tells of the refusal (notes/assumptions/3.md). It holds for either kind of start and whatever the command word
is; the two grains are the model's (notes/assumptions/1.md). -/
def Obligations.RefusedStartLeavesTheOperation : Prop :=
  ∀ (command : List Byte) (x : Stimulus) (s : State) (n : Nat), s.busy = true →
    x = .start command ∨ x = .accept command →
    ∃ t t', runMachine n { s with inbox := List.replicate n .tick } = .next t ∧
      runMachine (n + 1) { s with inbox := x :: List.replicate n .tick } = .next t' ∧
      { t' with reply := t.reply } = t
end

