-- ==== Sys2Proof/Laws/State.lean ====
section
/-! SUPPORT. One lemma per field per named update of the state, each true by `rfl`, and what an update does to the
environment's remaining answers. -/

namespace Sys2Proof.Machine.State

/-! ### `emit` -/

@[simp] theorem dir_emit (s : State) (e : Event) : (s.emit e).dir = s.dir := rfl
@[simp] theorem lvl_emit (s : State) (e : Event) : (s.emit e).lvl = s.lvl := rfl
@[simp] theorem irqEn_emit (s : State) (e : Event) : (s.emit e).irqEn = s.irqEn := rfl
@[simp] theorem irqSaved_emit (s : State) (e : Event) : (s.emit e).irqSaved = s.irqSaved := rfl
@[simp] theorem rom_emit (s : State) (e : Event) : (s.emit e).rom = s.rom := rfl
@[simp] theorem sp_emit (s : State) (e : Event) : (s.emit e).sp = s.sp := rfl
@[simp] theorem tempRaw_emit (s : State) (e : Event) : (s.emit e).tempRaw = s.tempRaw := rfl
@[simp] theorem th_emit (s : State) (e : Event) : (s.emit e).th = s.th := rfl
@[simp] theorem tl_emit (s : State) (e : Event) : (s.emit e).tl = s.tl := rfl
@[simp] theorem res_emit (s : State) (e : Event) : (s.emit e).res = s.res := rfl
@[simp] theorem detected_emit (s : State) (e : Event) : (s.emit e).detected = s.detected := rfl
@[simp] theorem parasite_emit (s : State) (e : Event) : (s.emit e).parasite = s.parasite := rfl
@[simp] theorem alarm_emit (s : State) (e : Event) : (s.emit e).alarm = s.alarm := rfl
@[simp] theorem busy_emit (s : State) (e : Event) : (s.emit e).busy = s.busy := rfl
@[simp] theorem curOp_emit (s : State) (e : Event) : (s.emit e).curOp = s.curOp := rfl
@[simp] theorem bitIdx_emit (s : State) (e : Event) : (s.emit e).bitIdx = s.bitIdx := rfl
@[simp] theorem shift_emit (s : State) (e : Event) : (s.emit e).shift = s.shift := rfl
@[simp] theorem cfg_emit (s : State) (e : Event) : (s.emit e).cfg = s.cfg := rfl
@[simp] theorem pending_emit (s : State) (e : Event) : (s.emit e).pending = s.pending := rfl
@[simp] theorem latchS1_emit (s : State) (e : Event) : (s.emit e).latchS1 = s.latchS1 := rfl
@[simp] theorem latchS2_emit (s : State) (e : Event) : (s.emit e).latchS2 = s.latchS2 := rfl
@[simp] theorem latchB_emit (s : State) (e : Event) : (s.emit e).latchB = s.latchB := rfl
@[simp] theorem trace_emit (s : State) (e : Event) : (s.emit e).trace = s.trace ++ [e] := rfl
@[simp] theorem line_emit (s : State) (e : Event) : (s.emit e).line = s.line := rfl
@[simp] theorem draws_emit (s : State) (e : Event) : (s.emit e).draws = s.draws := rfl
@[simp] theorem freeUsed_emit (s : State) (e : Event) : (s.emit e).freeUsed = s.freeUsed := rfl
@[simp] theorem inbox_emit (s : State) (e : Event) : (s.emit e).inbox = s.inbox := rfl
@[simp] theorem rb_emit (s : State) (e : Event) : (s.emit e).rb = s.rb := rfl
@[simp] theorem reply_emit (s : State) (e : Event) : (s.emit e).reply = s.reply := rfl

/-! ### `maskEnter` -/

@[simp] theorem dir_maskEnter (s : State) : (s.maskEnter).dir = s.dir := rfl
@[simp] theorem lvl_maskEnter (s : State) : (s.maskEnter).lvl = s.lvl := rfl
@[simp] theorem irqEn_maskEnter (s : State) : (s.maskEnter).irqEn = false := rfl
@[simp] theorem irqSaved_maskEnter (s : State) : (s.maskEnter).irqSaved = s.irqEn := rfl
@[simp] theorem rom_maskEnter (s : State) : (s.maskEnter).rom = s.rom := rfl
@[simp] theorem sp_maskEnter (s : State) : (s.maskEnter).sp = s.sp := rfl
@[simp] theorem tempRaw_maskEnter (s : State) : (s.maskEnter).tempRaw = s.tempRaw := rfl
@[simp] theorem th_maskEnter (s : State) : (s.maskEnter).th = s.th := rfl
@[simp] theorem tl_maskEnter (s : State) : (s.maskEnter).tl = s.tl := rfl
@[simp] theorem res_maskEnter (s : State) : (s.maskEnter).res = s.res := rfl
@[simp] theorem detected_maskEnter (s : State) : (s.maskEnter).detected = s.detected := rfl
@[simp] theorem parasite_maskEnter (s : State) : (s.maskEnter).parasite = s.parasite := rfl
@[simp] theorem alarm_maskEnter (s : State) : (s.maskEnter).alarm = s.alarm := rfl
@[simp] theorem busy_maskEnter (s : State) : (s.maskEnter).busy = s.busy := rfl
@[simp] theorem curOp_maskEnter (s : State) : (s.maskEnter).curOp = s.curOp := rfl
@[simp] theorem bitIdx_maskEnter (s : State) : (s.maskEnter).bitIdx = s.bitIdx := rfl
@[simp] theorem shift_maskEnter (s : State) : (s.maskEnter).shift = s.shift := rfl
@[simp] theorem cfg_maskEnter (s : State) : (s.maskEnter).cfg = s.cfg := rfl
@[simp] theorem pending_maskEnter (s : State) : (s.maskEnter).pending = s.pending := rfl
@[simp] theorem latchS1_maskEnter (s : State) : (s.maskEnter).latchS1 = s.latchS1 := rfl
@[simp] theorem latchS2_maskEnter (s : State) : (s.maskEnter).latchS2 = s.latchS2 := rfl
@[simp] theorem latchB_maskEnter (s : State) : (s.maskEnter).latchB = s.latchB := rfl
@[simp] theorem trace_maskEnter (s : State) : (s.maskEnter).trace = s.trace := rfl
@[simp] theorem line_maskEnter (s : State) : (s.maskEnter).line = s.line := rfl
@[simp] theorem draws_maskEnter (s : State) : (s.maskEnter).draws = s.draws := rfl
@[simp] theorem freeUsed_maskEnter (s : State) : (s.maskEnter).freeUsed = s.freeUsed := rfl
@[simp] theorem inbox_maskEnter (s : State) : (s.maskEnter).inbox = s.inbox := rfl
@[simp] theorem rb_maskEnter (s : State) : (s.maskEnter).rb = s.rb := rfl
@[simp] theorem reply_maskEnter (s : State) : (s.maskEnter).reply = s.reply := rfl

/-! ### `maskExit` -/

@[simp] theorem dir_maskExit (s : State) : (s.maskExit).dir = s.dir := rfl
@[simp] theorem lvl_maskExit (s : State) : (s.maskExit).lvl = s.lvl := rfl
@[simp] theorem irqEn_maskExit (s : State) : (s.maskExit).irqEn = s.irqSaved := rfl
@[simp] theorem irqSaved_maskExit (s : State) : (s.maskExit).irqSaved = s.irqSaved := rfl
@[simp] theorem rom_maskExit (s : State) : (s.maskExit).rom = s.rom := rfl
@[simp] theorem sp_maskExit (s : State) : (s.maskExit).sp = s.sp := rfl
@[simp] theorem tempRaw_maskExit (s : State) : (s.maskExit).tempRaw = s.tempRaw := rfl
@[simp] theorem th_maskExit (s : State) : (s.maskExit).th = s.th := rfl
@[simp] theorem tl_maskExit (s : State) : (s.maskExit).tl = s.tl := rfl
@[simp] theorem res_maskExit (s : State) : (s.maskExit).res = s.res := rfl
@[simp] theorem detected_maskExit (s : State) : (s.maskExit).detected = s.detected := rfl
@[simp] theorem parasite_maskExit (s : State) : (s.maskExit).parasite = s.parasite := rfl
@[simp] theorem alarm_maskExit (s : State) : (s.maskExit).alarm = s.alarm := rfl
@[simp] theorem busy_maskExit (s : State) : (s.maskExit).busy = s.busy := rfl
@[simp] theorem curOp_maskExit (s : State) : (s.maskExit).curOp = s.curOp := rfl
@[simp] theorem bitIdx_maskExit (s : State) : (s.maskExit).bitIdx = s.bitIdx := rfl
@[simp] theorem shift_maskExit (s : State) : (s.maskExit).shift = s.shift := rfl
@[simp] theorem cfg_maskExit (s : State) : (s.maskExit).cfg = s.cfg := rfl
@[simp] theorem pending_maskExit (s : State) : (s.maskExit).pending = s.pending := rfl
@[simp] theorem latchS1_maskExit (s : State) : (s.maskExit).latchS1 = s.latchS1 := rfl
@[simp] theorem latchS2_maskExit (s : State) : (s.maskExit).latchS2 = s.latchS2 := rfl
@[simp] theorem latchB_maskExit (s : State) : (s.maskExit).latchB = s.latchB := rfl
@[simp] theorem trace_maskExit (s : State) : (s.maskExit).trace = s.trace := rfl
@[simp] theorem line_maskExit (s : State) : (s.maskExit).line = s.line := rfl
@[simp] theorem draws_maskExit (s : State) : (s.maskExit).draws = s.draws := rfl
@[simp] theorem freeUsed_maskExit (s : State) : (s.maskExit).freeUsed = s.freeUsed := rfl
@[simp] theorem inbox_maskExit (s : State) : (s.maskExit).inbox = s.inbox := rfl
@[simp] theorem rb_maskExit (s : State) : (s.maskExit).rb = s.rb := rfl
@[simp] theorem reply_maskExit (s : State) : (s.maskExit).reply = s.reply := rfl

/-! ### `takeAnswer` -/

@[simp] theorem dir_takeAnswer (s : State) : (s.takeAnswer).dir = s.dir := rfl
@[simp] theorem lvl_takeAnswer (s : State) : (s.takeAnswer).lvl = s.lvl := rfl
@[simp] theorem irqEn_takeAnswer (s : State) : (s.takeAnswer).irqEn = s.irqEn := rfl
@[simp] theorem irqSaved_takeAnswer (s : State) : (s.takeAnswer).irqSaved = s.irqSaved := rfl
@[simp] theorem rom_takeAnswer (s : State) : (s.takeAnswer).rom = s.rom := rfl
@[simp] theorem sp_takeAnswer (s : State) : (s.takeAnswer).sp = s.sp := rfl
@[simp] theorem tempRaw_takeAnswer (s : State) : (s.takeAnswer).tempRaw = s.tempRaw := rfl
@[simp] theorem th_takeAnswer (s : State) : (s.takeAnswer).th = s.th := rfl
@[simp] theorem tl_takeAnswer (s : State) : (s.takeAnswer).tl = s.tl := rfl
@[simp] theorem res_takeAnswer (s : State) : (s.takeAnswer).res = s.res := rfl
@[simp] theorem detected_takeAnswer (s : State) : (s.takeAnswer).detected = s.detected := rfl
@[simp] theorem parasite_takeAnswer (s : State) : (s.takeAnswer).parasite = s.parasite := rfl
@[simp] theorem alarm_takeAnswer (s : State) : (s.takeAnswer).alarm = s.alarm := rfl
@[simp] theorem busy_takeAnswer (s : State) : (s.takeAnswer).busy = s.busy := rfl
@[simp] theorem curOp_takeAnswer (s : State) : (s.takeAnswer).curOp = s.curOp := rfl
@[simp] theorem bitIdx_takeAnswer (s : State) : (s.takeAnswer).bitIdx = s.bitIdx := rfl
@[simp] theorem shift_takeAnswer (s : State) : (s.takeAnswer).shift = s.shift := rfl
@[simp] theorem cfg_takeAnswer (s : State) : (s.takeAnswer).cfg = s.cfg := rfl
@[simp] theorem pending_takeAnswer (s : State) : (s.takeAnswer).pending = s.pending := rfl
@[simp] theorem latchS1_takeAnswer (s : State) : (s.takeAnswer).latchS1 = s.latchS1 := rfl
@[simp] theorem latchS2_takeAnswer (s : State) : (s.takeAnswer).latchS2 = s.latchS2 := rfl
@[simp] theorem latchB_takeAnswer (s : State) : (s.takeAnswer).latchB = s.latchB := rfl
@[simp] theorem trace_takeAnswer (s : State) : (s.takeAnswer).trace = s.trace := rfl
@[simp] theorem line_takeAnswer (s : State) : (s.takeAnswer).line = s.line.tail := rfl
@[simp] theorem draws_takeAnswer (s : State) : (s.takeAnswer).draws = s.draws + 1 := rfl
@[simp] theorem freeUsed_takeAnswer (s : State) : (s.takeAnswer).freeUsed = s.freeUsed := rfl
@[simp] theorem inbox_takeAnswer (s : State) : (s.takeAnswer).inbox = s.inbox := rfl
@[simp] theorem rb_takeAnswer (s : State) : (s.takeAnswer).rb = s.rb := rfl
@[simp] theorem reply_takeAnswer (s : State) : (s.takeAnswer).reply = s.reply := rfl

/-! ### `decodeScratchpad` -/

@[simp] theorem dir_decodeScratchpad (s : State) : (s.decodeScratchpad).dir = s.dir := rfl
@[simp] theorem lvl_decodeScratchpad (s : State) : (s.decodeScratchpad).lvl = s.lvl := rfl
@[simp] theorem irqEn_decodeScratchpad (s : State) : (s.decodeScratchpad).irqEn = s.irqEn := rfl
@[simp] theorem irqSaved_decodeScratchpad (s : State) : (s.decodeScratchpad).irqSaved = s.irqSaved := rfl
@[simp] theorem rom_decodeScratchpad (s : State) : (s.decodeScratchpad).rom = s.rom := rfl
@[simp] theorem sp_decodeScratchpad (s : State) : (s.decodeScratchpad).sp = s.sp := rfl
@[simp] theorem tempRaw_decodeScratchpad (s : State) : (s.decodeScratchpad).tempRaw = temperatureWord s.sp := rfl
@[simp] theorem th_decodeScratchpad (s : State) : (s.decodeScratchpad).th = s.sp[2] := rfl
@[simp] theorem tl_decodeScratchpad (s : State) : (s.decodeScratchpad).tl = s.sp[3] := rfl
@[simp] theorem res_decodeScratchpad (s : State) : (s.decodeScratchpad).res = decodeRes s.cfg s.sp[4] := rfl
@[simp] theorem detected_decodeScratchpad (s : State) : (s.decodeScratchpad).detected = s.detected := rfl
@[simp] theorem parasite_decodeScratchpad (s : State) : (s.decodeScratchpad).parasite = s.parasite := rfl
@[simp] theorem alarm_decodeScratchpad (s : State) : (s.decodeScratchpad).alarm = s.alarm := rfl
@[simp] theorem busy_decodeScratchpad (s : State) : (s.decodeScratchpad).busy = s.busy := rfl
@[simp] theorem curOp_decodeScratchpad (s : State) : (s.decodeScratchpad).curOp = s.curOp := rfl
@[simp] theorem bitIdx_decodeScratchpad (s : State) : (s.decodeScratchpad).bitIdx = s.bitIdx := rfl
@[simp] theorem shift_decodeScratchpad (s : State) : (s.decodeScratchpad).shift = s.shift := rfl
@[simp] theorem cfg_decodeScratchpad (s : State) : (s.decodeScratchpad).cfg = s.cfg := rfl
@[simp] theorem pending_decodeScratchpad (s : State) : (s.decodeScratchpad).pending = s.pending := rfl
@[simp] theorem latchS1_decodeScratchpad (s : State) : (s.decodeScratchpad).latchS1 = s.latchS1 := rfl
@[simp] theorem latchS2_decodeScratchpad (s : State) : (s.decodeScratchpad).latchS2 = s.latchS2 := rfl
@[simp] theorem latchB_decodeScratchpad (s : State) : (s.decodeScratchpad).latchB = s.latchB := rfl
@[simp] theorem trace_decodeScratchpad (s : State) : (s.decodeScratchpad).trace = s.trace := rfl
@[simp] theorem line_decodeScratchpad (s : State) : (s.decodeScratchpad).line = s.line := rfl
@[simp] theorem draws_decodeScratchpad (s : State) : (s.decodeScratchpad).draws = s.draws := rfl
@[simp] theorem freeUsed_decodeScratchpad (s : State) : (s.decodeScratchpad).freeUsed = s.freeUsed := rfl
@[simp] theorem inbox_decodeScratchpad (s : State) : (s.decodeScratchpad).inbox = s.inbox := rfl
@[simp] theorem rb_decodeScratchpad (s : State) : (s.decodeScratchpad).rb = s.rb := rfl
@[simp] theorem reply_decodeScratchpad (s : State) : (s.decodeScratchpad).reply = s.reply := rfl

/-! ### `refuse` -/

@[simp] theorem dir_refuse (s : State) (why : RefusedStart) : (s.refuse why).dir = s.dir := rfl
@[simp] theorem lvl_refuse (s : State) (why : RefusedStart) : (s.refuse why).lvl = s.lvl := rfl
@[simp] theorem irqEn_refuse (s : State) (why : RefusedStart) : (s.refuse why).irqEn = s.irqEn := rfl
@[simp] theorem irqSaved_refuse (s : State) (why : RefusedStart) : (s.refuse why).irqSaved = s.irqSaved := rfl
@[simp] theorem rom_refuse (s : State) (why : RefusedStart) : (s.refuse why).rom = s.rom := rfl
@[simp] theorem sp_refuse (s : State) (why : RefusedStart) : (s.refuse why).sp = s.sp := rfl
@[simp] theorem tempRaw_refuse (s : State) (why : RefusedStart) : (s.refuse why).tempRaw = s.tempRaw := rfl
@[simp] theorem th_refuse (s : State) (why : RefusedStart) : (s.refuse why).th = s.th := rfl
@[simp] theorem tl_refuse (s : State) (why : RefusedStart) : (s.refuse why).tl = s.tl := rfl
@[simp] theorem res_refuse (s : State) (why : RefusedStart) : (s.refuse why).res = s.res := rfl
@[simp] theorem detected_refuse (s : State) (why : RefusedStart) : (s.refuse why).detected = s.detected := rfl
@[simp] theorem parasite_refuse (s : State) (why : RefusedStart) : (s.refuse why).parasite = s.parasite := rfl
@[simp] theorem alarm_refuse (s : State) (why : RefusedStart) : (s.refuse why).alarm = s.alarm := rfl
@[simp] theorem busy_refuse (s : State) (why : RefusedStart) : (s.refuse why).busy = s.busy := rfl
@[simp] theorem curOp_refuse (s : State) (why : RefusedStart) : (s.refuse why).curOp = s.curOp := rfl
@[simp] theorem bitIdx_refuse (s : State) (why : RefusedStart) : (s.refuse why).bitIdx = s.bitIdx := rfl
@[simp] theorem shift_refuse (s : State) (why : RefusedStart) : (s.refuse why).shift = s.shift := rfl
@[simp] theorem cfg_refuse (s : State) (why : RefusedStart) : (s.refuse why).cfg = s.cfg := rfl
@[simp] theorem pending_refuse (s : State) (why : RefusedStart) : (s.refuse why).pending = s.pending := rfl
@[simp] theorem latchS1_refuse (s : State) (why : RefusedStart) : (s.refuse why).latchS1 = s.latchS1 := rfl
@[simp] theorem latchS2_refuse (s : State) (why : RefusedStart) : (s.refuse why).latchS2 = s.latchS2 := rfl
@[simp] theorem latchB_refuse (s : State) (why : RefusedStart) : (s.refuse why).latchB = s.latchB := rfl
@[simp] theorem trace_refuse (s : State) (why : RefusedStart) : (s.refuse why).trace = s.trace := rfl
@[simp] theorem line_refuse (s : State) (why : RefusedStart) : (s.refuse why).line = s.line := rfl
@[simp] theorem draws_refuse (s : State) (why : RefusedStart) : (s.refuse why).draws = s.draws := rfl
@[simp] theorem freeUsed_refuse (s : State) (why : RefusedStart) : (s.refuse why).freeUsed = s.freeUsed := rfl
@[simp] theorem inbox_refuse (s : State) (why : RefusedStart) : (s.refuse why).inbox = s.inbox := rfl
@[simp] theorem rb_refuse (s : State) (why : RefusedStart) : (s.refuse why).rb = s.rb := rfl
@[simp] theorem reply_refuse (s : State) (why : RefusedStart) : (s.refuse why).reply = .refusedStart why := rfl

/-! ### `accept` -/

@[simp] theorem dir_accept (s : State) (i : Instr) (body : List Micro) : (s.accept i body).dir = s.dir := rfl
@[simp] theorem lvl_accept (s : State) (i : Instr) (body : List Micro) : (s.accept i body).lvl = s.lvl := rfl
@[simp] theorem irqEn_accept (s : State) (i : Instr) (body : List Micro) : (s.accept i body).irqEn = s.irqEn := rfl
@[simp] theorem irqSaved_accept (s : State) (i : Instr) (body : List Micro) : (s.accept i body).irqSaved = s.irqSaved := rfl
@[simp] theorem rom_accept (s : State) (i : Instr) (body : List Micro) : (s.accept i body).rom = s.rom := rfl
@[simp] theorem sp_accept (s : State) (i : Instr) (body : List Micro) : (s.accept i body).sp = s.sp := rfl
@[simp] theorem tempRaw_accept (s : State) (i : Instr) (body : List Micro) : (s.accept i body).tempRaw = s.tempRaw := rfl
@[simp] theorem th_accept (s : State) (i : Instr) (body : List Micro) : (s.accept i body).th = s.th := rfl
@[simp] theorem tl_accept (s : State) (i : Instr) (body : List Micro) : (s.accept i body).tl = s.tl := rfl
@[simp] theorem res_accept (s : State) (i : Instr) (body : List Micro) : (s.accept i body).res = s.res := rfl
@[simp] theorem detected_accept (s : State) (i : Instr) (body : List Micro) : (s.accept i body).detected = s.detected := rfl
@[simp] theorem parasite_accept (s : State) (i : Instr) (body : List Micro) : (s.accept i body).parasite = s.parasite := rfl
@[simp] theorem alarm_accept (s : State) (i : Instr) (body : List Micro) : (s.accept i body).alarm = s.alarm := rfl
@[simp] theorem busy_accept (s : State) (i : Instr) (body : List Micro) : (s.accept i body).busy = true := rfl
@[simp] theorem curOp_accept (s : State) (i : Instr) (body : List Micro) : (s.accept i body).curOp = i := rfl
@[simp] theorem bitIdx_accept (s : State) (i : Instr) (body : List Micro) : (s.accept i body).bitIdx = s.bitIdx := rfl
@[simp] theorem shift_accept (s : State) (i : Instr) (body : List Micro) : (s.accept i body).shift = s.shift := rfl
@[simp] theorem cfg_accept (s : State) (i : Instr) (body : List Micro) : (s.accept i body).cfg = s.cfg := rfl
@[simp] theorem pending_accept (s : State) (i : Instr) (body : List Micro) : (s.accept i body).pending = body ++ [.prim .busyOff] := rfl
@[simp] theorem latchS1_accept (s : State) (i : Instr) (body : List Micro) : (s.accept i body).latchS1 = s.latchS1 := rfl
@[simp] theorem latchS2_accept (s : State) (i : Instr) (body : List Micro) : (s.accept i body).latchS2 = s.latchS2 := rfl
@[simp] theorem latchB_accept (s : State) (i : Instr) (body : List Micro) : (s.accept i body).latchB = s.latchB := rfl
@[simp] theorem trace_accept (s : State) (i : Instr) (body : List Micro) : (s.accept i body).trace = s.trace := rfl
@[simp] theorem line_accept (s : State) (i : Instr) (body : List Micro) : (s.accept i body).line = s.line := rfl
@[simp] theorem draws_accept (s : State) (i : Instr) (body : List Micro) : (s.accept i body).draws = s.draws := rfl
@[simp] theorem freeUsed_accept (s : State) (i : Instr) (body : List Micro) : (s.accept i body).freeUsed = s.freeUsed := rfl
@[simp] theorem inbox_accept (s : State) (i : Instr) (body : List Micro) : (s.accept i body).inbox = s.inbox := rfl
@[simp] theorem rb_accept (s : State) (i : Instr) (body : List Micro) : (s.accept i body).rb = s.rb := rfl
@[simp] theorem reply_accept (s : State) (i : Instr) (body : List Micro) : (s.accept i body).reply = .accepted := rfl

/-! ### `idleSequencer` -/

@[simp] theorem dir_idleSequencer (s : State) : (s.idleSequencer).dir = s.dir := rfl
@[simp] theorem lvl_idleSequencer (s : State) : (s.idleSequencer).lvl = s.lvl := rfl
@[simp] theorem irqEn_idleSequencer (s : State) : (s.idleSequencer).irqEn = s.irqEn := rfl
@[simp] theorem irqSaved_idleSequencer (s : State) : (s.idleSequencer).irqSaved = s.irqSaved := rfl
@[simp] theorem rom_idleSequencer (s : State) : (s.idleSequencer).rom = s.rom := rfl
@[simp] theorem sp_idleSequencer (s : State) : (s.idleSequencer).sp = s.sp := rfl
@[simp] theorem tempRaw_idleSequencer (s : State) : (s.idleSequencer).tempRaw = s.tempRaw := rfl
@[simp] theorem th_idleSequencer (s : State) : (s.idleSequencer).th = s.th := rfl
@[simp] theorem tl_idleSequencer (s : State) : (s.idleSequencer).tl = s.tl := rfl
@[simp] theorem res_idleSequencer (s : State) : (s.idleSequencer).res = s.res := rfl
@[simp] theorem detected_idleSequencer (s : State) : (s.idleSequencer).detected = s.detected := rfl
@[simp] theorem parasite_idleSequencer (s : State) : (s.idleSequencer).parasite = s.parasite := rfl
@[simp] theorem alarm_idleSequencer (s : State) : (s.idleSequencer).alarm = s.alarm := rfl
@[simp] theorem busy_idleSequencer (s : State) : (s.idleSequencer).busy = s.busy := rfl
@[simp] theorem cfg_idleSequencer (s : State) : (s.idleSequencer).cfg = s.cfg := rfl
@[simp] theorem pending_idleSequencer (s : State) : (s.idleSequencer).pending = s.pending := rfl
@[simp] theorem latchS1_idleSequencer (s : State) : (s.idleSequencer).latchS1 = s.latchS1 := rfl
@[simp] theorem latchS2_idleSequencer (s : State) : (s.idleSequencer).latchS2 = s.latchS2 := rfl
@[simp] theorem latchB_idleSequencer (s : State) : (s.idleSequencer).latchB = s.latchB := rfl
@[simp] theorem trace_idleSequencer (s : State) : (s.idleSequencer).trace = s.trace := rfl
@[simp] theorem line_idleSequencer (s : State) : (s.idleSequencer).line = s.line := rfl
@[simp] theorem draws_idleSequencer (s : State) : (s.idleSequencer).draws = s.draws := rfl
@[simp] theorem inbox_idleSequencer (s : State) : (s.idleSequencer).inbox = s.inbox := rfl
@[simp] theorem rb_idleSequencer (s : State) : (s.idleSequencer).rb = s.rb := rfl
@[simp] theorem reply_idleSequencer (s : State) : (s.idleSequencer).reply = s.reply := rfl
@[simp] theorem curOp_idleSequencer (s : State) : (s.idleSequencer).curOp = Config.idleCurOp s.freeUsed := rfl
@[simp] theorem bitIdx_idleSequencer (s : State) : (s.idleSequencer).bitIdx = (Config.idleBitIdx s.freeUsed).val := rfl
@[simp] theorem shift_idleSequencer (s : State) : (s.idleSequencer).shift = Config.idleShift s.freeUsed := rfl
@[simp] theorem freeUsed_idleSequencer (s : State) : (s.idleSequencer).freeUsed = s.freeUsed + 1 := rfl

end Sys2Proof.Machine.State
end

