-- ==== Sys2Proof/Laws/Answers.lean ====
section
/-! SUPPORT. The environment's answers: what a sample leaves of them. -/

namespace Sys2Proof.Machine

/-- Consuming `n` answers leaves the answers from `n` on. -/
@[simp] theorem answerAt_drop (listed : List Bool) (draws n k : Nat) :
    answerAt (listed.drop n) (draws + n) k = answerAt listed draws (n + k) := by
  simp only [answerAt, List.getElem?_drop, Nat.add_assoc]

/-- The same, of the answers as a whole. -/
theorem answerAt_drop_fun (listed : List Bool) (draws n : Nat) :
    answerAt (listed.drop n) (draws + n) = fun k => answerAt listed draws (n + k) :=
  funext (answerAt_drop listed draws n)

/-- After one sample the next answer is the second. -/
@[simp] theorem answerAt_tail (listed : List Bool) (draws k : Nat) :
    answerAt listed.tail (draws + 1) k = answerAt listed draws (1 + k) := by
  rw [← List.drop_one, answerAt_drop]

/-- The answers as a function of the listed ones and the draw counter. -/
theorem State.answer_eq (s : State) : s.answer = answerAt s.line s.draws := rfl

/-- The answers of a state that has consumed `n` of them. -/
theorem State.answer_shift {s t : State} {n : Nat} (hl : t.line = s.line.drop n) (hd : t.draws = s.draws + n)
    (k : Nat) : t.answer k = s.answer (n + k) := by
  simp only [State.answer, hl, hd, answerAt_drop]

end Sys2Proof.Machine
end

