-- ==== Sys2Proof/Laws/Procedures.lean ====
section
/-! SUPPORT. One lemma per procedure of files 40 to 44: what running it does to the state, said once. Meanings and claims
cite these and never unfold a procedure. -/

namespace Sys2Proof.Machine

@[simp] theorem performAll_nil (s : State) : performAll [] s = s := rfl

@[simp] theorem performAll_cons (p : Prim) (ps : List Prim) (s : State) :
    performAll (p :: ps) s = performAll ps (perform p s) := rfl

theorem performAll_append (ps qs : List Prim) (s : State) :
    performAll (ps ++ qs) s = performAll qs (performAll ps s) := by
  induction ps generalizing s with
  | nil => rfl
  | cons p ps ih => exact ih (perform p s)

/-- A run of primitives before other sequencer steps. -/
theorem runSteps_steps (ps : List Prim) (rest : List Micro) (s : State) :
    runSteps (Proc.steps ps ++ rest) s = runSteps rest (performAll ps s) := by
  induction ps generalizing s with
  | nil => rfl
  | cons p ps ih => exact ih (perform p s)

/-- `Reset()` (40_timeslot_primitives.md R131). -/
theorem performAll_reset (c : Params) (s : State) :
    performAll (Proc.reset c) s =
      { s with
        dir := .out, lvl := true, irqSaved := s.irqEn, latchS1 := s.answer 0, latchS2 := s.answer 1,
        detected := presence (s.answer 0) (s.answer 1), line := s.line.drop 2, draws := s.draws + 2,
        trace := s.trace ++ Trace.rst c (s.answer 0) (s.answer 1) } := by
  simp only [Proc.reset, performAll_cons, performAll_nil, perform, State.emit, State.maskEnter, State.maskExit,
    State.takeAnswer, State.setLatch, Trace.rst, State.answer, answerAt_tail, List.append_assoc, List.cons_append,
    List.nil_append]
  rw [← List.drop_one, ← List.drop_one, List.drop_drop]

/-- A write slot inside a region (40_timeslot_primitives.md R134, R135). -/
theorem performAll_slotW (c : Params) (b : Bool) (s : State) :
    performAll (Proc.slotW c b) s =
      { s with dir := .out, lvl := true, trace := s.trace ++ Trace.slot c b } := by
  cases b <;>
    simp [Proc.slotW, Proc.slotW0, Proc.slotW1, perform, State.emit, Trace.slot, Trace.w0, Trace.w1]

/-- A read slot inside a region (40_timeslot_primitives.md R136). -/
theorem performAll_slotR (c : Params) (s : State) :
    performAll (Proc.slotR c) s =
      { s with
        dir := .out, lvl := true, latchB := s.answer 0, line := s.line.tail, draws := s.draws + 1,
        trace := s.trace ++ Trace.r c (s.answer 0) } := by
  simp only [Proc.slotR, performAll_cons, performAll_nil, perform, State.emit, State.takeAnswer, State.setLatch,
    Trace.r, State.answer, List.append_assoc, List.cons_append, List.nil_append]

/-- `ReadBit1()` (41_byte_framer.md R166). -/
theorem performAll_readBit1 (c : Params) (s : State) :
    performAll (Proc.readBit1 c) s =
      { s with
        dir := .out, lvl := true, irqSaved := s.irqEn, latchB := s.answer 0, line := s.line.tail,
        draws := s.draws + 1, trace := s.trace ++ Trace.bit1 c (s.answer 0) } := by
  rw [Proc.readBit1, List.cons_append, performAll_cons, performAll_append, performAll_slotR]
  simp only [performAll_cons, performAll_nil, perform, State.emit, State.maskEnter, State.maskExit, Trace.bit1,
    State.answer, List.append_assoc, List.cons_append, List.nil_append]

/-- One turn of the serializer's loop (41_byte_framer.md R160). -/
theorem runSteps_writeTurn (k : Nat) (rest : List Micro) (s : State) :
    runSteps (Proc.writeTurn k ++ rest) s =
      runSteps rest { s with
        dir := .out, lvl := true, bitIdx := k, trace := s.trace ++ Trace.slot s.cfg (s.shift.getLsbD k) } := by
  simp only [Proc.writeTurn, List.cons_append, List.nil_append, runSteps, perform, performAll_slotW, shiftBit]

/-- The first `m + 1` turns of the serializer's loop: the slots of the bits of `SHIFT`, one after the other. -/
theorem runSteps_writeTurns (m : Nat) (rest : List Micro) (s : State) :
    runSteps ((List.range (m + 1)).flatMap Proc.writeTurn ++ rest) s =
      runSteps rest { s with
        dir := .out, lvl := true, bitIdx := m,
        trace := s.trace ++ (List.range (m + 1)).flatMap fun k => Trace.slot s.cfg (s.shift.getLsbD k) } := by
  induction m generalizing rest with
  | zero => simp [runSteps_writeTurn]
  | succ m ih =>
    rw [List.range_succ, List.flatMap_append, List.append_assoc, ih, List.flatMap_cons, List.flatMap_nil,
      List.append_nil, runSteps_writeTurn]
    simp

/-- `WriteBytes(v, n)` for `n >= 1` (41_byte_framer.md R160 to R163). -/
theorem runSteps_writeBytes (v : BitVec 32) (n : Nat) (hn : 1 ≤ n) (rest : List Micro) (s : State) :
    runSteps (Proc.writeBytes v n ++ rest) s =
      runSteps rest { s with
        dir := .out, lvl := true, irqSaved := s.irqEn, shift := v, bitIdx := 8 * n - 1,
        trace := s.trace ++ Trace.bytes s.cfg v n } := by
  have h8 : 8 * n = 8 * n - 1 + 1 := by omega
  rw [Proc.writeBytes, List.append_assoc, List.append_assoc, runSteps_steps, Trace.bytes, h8, runSteps_writeTurns,
    runSteps_steps]
  simp [perform, State.emit, State.maskEnter, State.maskExit]

/-- A one-byte framer call (41_byte_framer.md R164). -/
theorem runSteps_opcode (op : Byte) (rest : List Micro) (s : State) :
    runSteps (Proc.opcode op ++ rest) s =
      runSteps rest { s with
        dir := .out, lvl := true, irqSaved := s.irqEn, shift := op.setWidth 32, bitIdx := 7,
        trace := s.trace ++ Trace.w s.cfg op } := by
  rw [Proc.opcode, runSteps_writeBytes _ 1 (Nat.le_refl 1)]
  rfl

/-- `Reset()` before other sequencer steps. -/
theorem runSteps_reset (c : Params) (rest : List Micro) (s : State) :
    runSteps (Proc.steps (Proc.reset c) ++ rest) s =
      runSteps rest { s with
        dir := .out, lvl := true, irqSaved := s.irqEn, latchS1 := s.answer 0, latchS2 := s.answer 1,
        detected := presence (s.answer 0) (s.answer 1), line := s.line.drop 2, draws := s.draws + 2,
        trace := s.trace ++ Trace.rst c (s.answer 0) (s.answer 1) } := by
  rw [runSteps_steps, performAll_reset]

/-- `FnPrologue(op)` (43_function_commands.md R200). -/
theorem runSteps_fnPrologue (c : Params) (op : Byte) (rest : List Micro) (s : State) (hc : s.cfg = c) :
    runSteps (Proc.fnPrologue c op ++ rest) s =
      runSteps rest { s with
        dir := .out, lvl := true, irqSaved := s.irqEn, latchS1 := s.answer 0, latchS2 := s.answer 1,
        detected := presence (s.answer 0) (s.answer 1), line := s.line.drop 2, draws := s.draws + 2,
        shift := op.setWidth 32, bitIdx := 7,
        trace := s.trace ++ Trace.prologue c (s.answer 0) (s.answer 1) op } := by
  subst hc
  rw [Proc.fnPrologue, List.append_assoc, List.append_assoc, runSteps_reset, Proc.romSkip]
  rw [runSteps_opcode, runSteps_opcode]
  simp [Trace.prologue]

/-- The buffer after the deserializer's first `n` turns, the `k`-th sample being `a k` (41_byte_framer.md R165). -/
def gathered {m : Nat} (buf : Vector Byte m) (a : Nat → Bool) : Nat → Vector Byte m
  | 0 => buf
  | n + 1 => if a n then orBit (gathered buf a n) n else gathered buf a n

/-- One bit of a buffer after one bit was set. -/
theorem getLsbD_orBit {m : Nat} (buf : Vector Byte m) (k j i : Nat) (hj : j < m) (hi : i < 8) :
    (orBit buf k)[j].getLsbD i = (buf[j].getLsbD i || decide (8 * j + i = k)) := by
  unfold orBit
  split
  · rename_i hk
    rw [Vector.getElem_set]
    by_cases h : k / 8 = j
    · subst h
      simp only [if_pos, BitVec.getLsbD_or, BitVec.getLsbD_shiftLeft, hi, decide_true, Bool.true_and]
      congr 1
      by_cases h2 : i = k % 8
      · simp [h2]
        omega
      · have h3 : ¬ 8 * (k / 8) + i = k := by omega
        simp only [h3, decide_false]
        by_cases h4 : i < k % 8
        · simp [h4]
        · have h5 : i - k % 8 ≠ 0 := by omega
          simp [BitVec.getLsbD_one, h5]
    · have h3 : ¬ 8 * j + i = k := by omega
      simp [h, h3]
  · have h3 : ¬ 8 * j + i = k := by omega
    simp [h3]

/-- The bits of a cleared buffer after `n` turns: bit `k mod 8` of byte `k div 8` is the `k`-th sample (20_memory.md R62,
R63, R68). -/
theorem getLsbD_gathered {m : Nat} (a : Nat → Bool) (n j i : Nat) (hj : j < m) (hi : i < 8) :
    (gathered (Vector.replicate m 0x00#8) a n)[j].getLsbD i = (decide (8 * j + i < n) && a (8 * j + i)) := by
  induction n with
  | zero => simp [gathered]
  | succ n ih =>
    unfold gathered
    by_cases hk : 8 * j + i = n
    · subst hk
      by_cases ha : a (8 * j + i) = true
      · simp [getLsbD_orBit _ _ _ _ hj hi, ha]
      · simp [ih, ha]
    · have h1 : decide (8 * j + i < n + 1) = decide (8 * j + i < n) := by
        by_cases h : 8 * j + i < n
        · simp [h]; omega
        · simp [h]; omega
      split
      · rw [getLsbD_orBit _ _ _ _ hj hi, ih, h1]; simp [hk]
      · rw [ih, h1]

/-- One turn of the deserializer's loop (41_byte_framer.md R165). -/
theorem performAll_readTurn_rom (c : Params) (k : Nat) (s : State) :
    performAll (Proc.readTurn c .rom k) s =
      { s with
        dir := .out, lvl := true, bitIdx := k, latchB := s.answer 0, line := s.line.tail, draws := s.draws + 1,
        rom := if s.answer 0 then orBit s.rom k else s.rom,
        trace := s.trace ++ Trace.r c (s.answer 0) } := by
  rw [Proc.readTurn, List.cons_append, performAll_cons, performAll_append, performAll_slotR]
  simp only [performAll_cons, performAll_nil, perform, State.accumulate, State.answer]
  split <;> simp_all

/-- The same for the scratchpad. -/
theorem performAll_readTurn_sp (c : Params) (k : Nat) (s : State) :
    performAll (Proc.readTurn c .sp k) s =
      { s with
        dir := .out, lvl := true, bitIdx := k, latchB := s.answer 0, line := s.line.tail, draws := s.draws + 1,
        sp := if s.answer 0 then orBit s.sp k else s.sp,
        trace := s.trace ++ Trace.r c (s.answer 0) } := by
  rw [Proc.readTurn, List.cons_append, performAll_cons, performAll_append, performAll_slotR]
  simp only [performAll_cons, performAll_nil, perform, State.accumulate, State.answer]
  split <;> simp_all

/-- The first `n + 1` turns of the deserializer's loop into `ROM`. -/
theorem performAll_readTurns_rom (c : Params) (n : Nat) (s : State) :
    performAll ((List.range (n + 1)).flatMap (Proc.readTurn c .rom)) s =
      { s with
        dir := .out, lvl := true, bitIdx := n, latchB := s.answer n, line := s.line.drop (n + 1),
        draws := s.draws + (n + 1), rom := gathered s.rom s.answer (n + 1),
        trace := s.trace ++ (List.range (n + 1)).flatMap fun k => Trace.r c (s.answer k) } := by
  induction n with
  | zero => simp [performAll_readTurn_rom, gathered]
  | succ n ih =>
    rw [List.range_succ, List.flatMap_append, performAll_append, ih, List.flatMap_cons, List.flatMap_nil,
      List.append_nil, performAll_readTurn_rom]
    simp [gathered, State.answer, Nat.add_assoc]
    rfl

/-- The first `n + 1` turns of the deserializer's loop into `SP`. -/
theorem performAll_readTurns_sp (c : Params) (n : Nat) (s : State) :
    performAll ((List.range (n + 1)).flatMap (Proc.readTurn c .sp)) s =
      { s with
        dir := .out, lvl := true, bitIdx := n, latchB := s.answer n, line := s.line.drop (n + 1),
        draws := s.draws + (n + 1), sp := gathered s.sp s.answer (n + 1),
        trace := s.trace ++ (List.range (n + 1)).flatMap fun k => Trace.r c (s.answer k) } := by
  induction n with
  | zero => simp [performAll_readTurn_sp, gathered]
  | succ n ih =>
    rw [List.range_succ, List.flatMap_append, performAll_append, ih, List.flatMap_cons, List.flatMap_nil,
      List.append_nil, performAll_readTurn_sp]
    simp [gathered, State.answer, Nat.add_assoc]
    rfl

/-- `ReadBits(ROM, 64)` (41_byte_framer.md R165). -/
theorem performAll_readBits_rom (c : Params) (s : State) :
    performAll (Proc.readBits c .rom 64) s =
      { s with
        dir := .out, lvl := true, irqSaved := s.irqEn, bitIdx := 63, latchB := s.answer 63, line := s.line.drop 64,
        draws := s.draws + 64, rom := gathered (Vector.replicate 8 0x00#8) s.answer 64,
        trace := s.trace ++ Trace.bits c 64 s.answer } := by
  rw [Proc.readBits, performAll_append, performAll_append, performAll_readTurns_rom c 63]
  simp only [performAll_cons, performAll_nil, perform, State.emit, State.maskEnter, State.maskExit, State.clearBuf]
  simp [Trace.bits, State.answer_eq]

/-- `ReadBits(SP, 72)` (41_byte_framer.md R165). -/
theorem performAll_readBits_sp (c : Params) (s : State) :
    performAll (Proc.readBits c .sp 72) s =
      { s with
        dir := .out, lvl := true, irqSaved := s.irqEn, bitIdx := 71, latchB := s.answer 71, line := s.line.drop 72,
        draws := s.draws + 72, sp := gathered (Vector.replicate 9 0x00#8) s.answer 72,
        trace := s.trace ++ Trace.bits c 72 s.answer } := by
  rw [Proc.readBits, performAll_append, performAll_append, performAll_readTurns_sp c 71]
  simp only [performAll_cons, performAll_nil, perform, State.emit, State.maskEnter, State.maskExit, State.clearBuf]
  simp [Trace.bits, State.answer_eq]

/-- The transmission of a list of bytes, one framer call each, at least one byte (42_rom_commands.md R182). -/
theorem runSteps_sendBytes (b : Byte) (bs : List Byte) (rest : List Micro) (s : State) :
    runSteps ((b :: bs).flatMap Proc.opcode ++ rest) s =
      runSteps rest { s with
        dir := .out, lvl := true, irqSaved := s.irqEn, shift := ((b :: bs).getLastD 0).setWidth 32, bitIdx := 7,
        trace := s.trace ++ (b :: bs).flatMap (Trace.w s.cfg) } := by
  induction bs generalizing b s with
  | nil => simpa using runSteps_opcode b rest s
  | cons b' bs ih =>
    rw [List.flatMap_cons, List.append_assoc, runSteps_opcode, ih b']
    simp

/-- `RomCmd(MATCH)` (42_rom_commands.md R180, R182). -/
theorem runSteps_romMatch (rom : Vector Byte 8) (rest : List Micro) (s : State) :
    runSteps (Proc.romMatch rom ++ rest) s =
      runSteps rest { s with
        dir := .out, lvl := true, irqSaved := s.irqEn, shift := rom[7].setWidth 32, bitIdx := 7,
        trace := s.trace ++ Trace.w s.cfg 0x55#8 ++ Trace.w s.cfg rom[0] ++ Trace.w s.cfg rom[1] ++
          Trace.w s.cfg rom[2] ++ Trace.w s.cfg rom[3] ++ Trace.w s.cfg rom[4] ++ Trace.w s.cfg rom[5] ++
          Trace.w s.cfg rom[6] ++ Trace.w s.cfg rom[7] } := by
  have hl : rom.toList = [rom[0], rom[1], rom[2], rom[3], rom[4], rom[5], rom[6], rom[7]] := by
    apply List.ext_getElem
    · simp
    · intro i h _
      have h8 : i < 8 := by simpa using h
      interval_cases i <;> simp
  rw [Proc.romMatch, List.append_assoc, runSteps_opcode, Proc.sendRom, hl, runSteps_sendBytes]
  simp

end Sys2Proof.Machine
end

