-- ==== Sys2Proof/Laws/Bodies.lean ====
section
/-! SUPPORT. Starting an operation, and the bodies that INIT shares with the operations they belong to: what each does to
the state, before whatever follows it. -/

namespace Sys2Proof.Machine

/-- A start while `BUSY = 1` (70_reset_and_hazards.md R300). -/
theorem startOp_busy (i : Instr) (body : List Micro) (s : State) (hb : s.busy = true) :
    startOp i body s = .next { s with reply := .refusedStart .busy } := by
  simp [startOp, refusal, hb, State.refuse]

/-- A legal start while `BUSY = 0`: the body runs, then `BUSY <- 0`. -/
theorem startOp_idle (i : Instr) (body : List Micro) (s : State) (hb : s.busy = false) (hl : i.legal s.cfg = true) :
    startOp i body s = .next (runSteps (body ++ [.prim .busyOff])
      { s with busy := true, curOp := i, pending := body ++ [.prim .busyOff], reply := .accepted }) := by
  simp [startOp, refusal, hb, hl, advance, State.accept]

/-- An illegal start while `BUSY = 0` (41_byte_framer.md R169). -/
theorem startOp_illegal (i : Instr) (body : List Micro) (s : State) (hb : s.busy = false) (hl : i.legal s.cfg = false) :
    startOp i body s = .next { s with reply := .refusedStart .byteCount } := by
  simp [startOp, refusal, hb, hl, State.refuse]

/-- The end of an operation. -/
theorem runSteps_busyOff (s : State) :
    runSteps [.prim .busyOff] s =
      { s with
        busy := false, pending := [], curOp := Config.idleCurOp s.freeUsed,
        bitIdx := (Config.idleBitIdx s.freeUsed).val, shift := Config.idleShift s.freeUsed,
        freeUsed := s.freeUsed + 1 } := rfl

/-- Every meaning is the start of its own body. -/
theorem exec_eq_startOp (i : Instr) (s : State) : exec i s = startOp i (bodyOf i s) s := by
  cases i <;> rfl

/-- A legal operation started while `BUSY = 0`. -/
theorem exec_idle (i : Instr) (s : State) (hb : s.busy = false) (hl : i.legal s.cfg = true) :
    exec i s = .next (runSteps (bodyOf i s ++ [.prim .busyOff])
      { s with
        busy := true, curOp := i, pending := bodyOf i s ++ [.prim .busyOff], reply := .accepted }) := by
  rw [exec_eq_startOp, startOp_idle _ _ _ hb hl]

/-- What a read of a whole buffer leaves: the samples from the `o`-th on (20_memory.md R62, R63). -/
theorem getLsbD_gathered_answer {m : Nat} (s : State) (o n : Nat) (j : Fin m) (i : Nat) (hi : i < 8) (hn : 8 * m ≤ n) :
    (gathered (Vector.replicate m 0x00#8) (fun k => s.answer (o + k)) n)[j].getLsbD i =
      s.answer (o + (8 * j + i)) := by
  refine (getLsbD_gathered (fun k => s.answer (o + k)) n j.val i j.isLt hi).trans ?_
  have h : 8 * j.val + i < n := by omega
  simp [h]

/-- The resolution decode, in numbers (44_decode_power_init.md R241). -/
theorem decodeRes_eq (c : Params) (hr : c.resDefault = 12) (b : Byte) :
    decodeRes c b = if b &&& 0x9F#8 = c.cfgReserved then 9 + b.toNat / 32 % 4 else 12 := by
  simp only [decodeRes, malformedConfig, hr, bne_iff_ne, ne_eq, ite_not, BitVec.extractLsb'_toNat,
    Nat.shiftRight_eq_div_pow]

/-- READ_ROM's body (42_rom_commands.md R181). -/
theorem runSteps_readRom (c : Params) (hn : c.romBits = 64) (rest : List Micro) (s : State) (hc : s.cfg = c) :
    runSteps (Proc.steps (Proc.reset c) ++ Proc.romRead c ++ rest) s =
      runSteps rest { s with
        dir := .out, lvl := true, irqSaved := s.irqEn, latchS1 := s.answer 0, latchS2 := s.answer 1,
        latchB := s.answer 65, detected := presence (s.answer 0) (s.answer 1), shift := 0x33#32, bitIdx := 63,
        rom := gathered (Vector.replicate 8 0x00#8) (fun k => s.answer (2 + k)) 64,
        line := s.line.drop 66, draws := s.draws + 66,
        trace := s.trace ++ Trace.rst c (s.answer 0) (s.answer 1) ++ Trace.w c 0x33#8 ++
          Trace.bits c 64 fun k => s.answer (2 + k) } := by
  subst hc
  rw [Proc.romRead, hn, List.append_assoc, List.append_assoc, runSteps_reset, runSteps_opcode,
    runSteps_steps, performAll_readBits_rom]
  simp [State.answer_eq, answerAt_drop_fun, Nat.add_assoc]

/-- READ_SCRATCHPAD's body (43_function_commands.md R205). -/
theorem runSteps_readScratchpad (c : Params) (hn : c.spBits = 72) (rest : List Micro) (s : State) (hc : s.cfg = c) :
    runSteps (Proc.fnPrologue c 0xBE#8 ++ Proc.steps (Proc.readBits c .sp c.spBits ++ [.decodeScratchpad]) ++ rest) s =
      runSteps rest (({ s with
        dir := .out, lvl := true, irqSaved := s.irqEn, latchS1 := s.answer 0, latchS2 := s.answer 1,
        latchB := s.answer 73, detected := presence (s.answer 0) (s.answer 1), shift := 0xBE#32, bitIdx := 71,
        sp := gathered (Vector.replicate 9 0x00#8) (fun k => s.answer (2 + k)) 72,
        line := s.line.drop 74, draws := s.draws + 74,
        trace := s.trace ++ Trace.prologue c (s.answer 0) (s.answer 1) 0xBE#8 ++
          Trace.bits c 72 fun k => s.answer (2 + k) } : State).decodeScratchpad) := by
  rw [hn, List.append_assoc, runSteps_fnPrologue _ _ _ _ hc, runSteps_steps, performAll_append, performAll_readBits_sp]
  simp [State.answer_eq, answerAt_drop_fun, Nat.add_assoc, perform]

/-- READ_POWER_SUPPLY's body (43_function_commands.md R208). -/
theorem runSteps_readPowerSupply (c : Params) (rest : List Micro) (s : State) (hc : s.cfg = c) :
    runSteps (Proc.fnPrologue c 0xB4#8 ++ Proc.steps (Proc.readBit1 c ++ [.setParasite]) ++ rest) s =
      runSteps rest { s with
        dir := .out, lvl := true, irqSaved := s.irqEn, latchS1 := s.answer 0, latchS2 := s.answer 1,
        latchB := s.answer 2, detected := presence (s.answer 0) (s.answer 1), shift := 0xB4#32, bitIdx := 7,
        parasite := assertedLow (s.answer 2), line := s.line.drop 3, draws := s.draws + 3,
        trace := s.trace ++ Trace.prologue c (s.answer 0) (s.answer 1) 0xB4#8 ++ Trace.bit1 c (s.answer 2) } := by
  rw [List.append_assoc, runSteps_fnPrologue _ _ _ _ hc, runSteps_steps, performAll_append, performAll_readBit1]
  simp [State.answer_eq, Nat.add_assoc, perform]

end Sys2Proof.Machine
end

