-- ==== Sys2Proof/Laws/Decode.lean ====
section
/-! SUPPORT. The operand fields of a command word: bytes joined and split, integers written and read back. -/

namespace Sys2Proof

/-- One bit of four joined bytes (20_memory.md R64). -/
theorem getLsbD_joinBytes (b0 b1 b2 b3 : Byte) (i : Nat) :
    (joinBytes b0 b1 b2 b3).getLsbD i =
      if i < 8 then b0.getLsbD i else if i < 16 then b1.getLsbD (i - 8)
      else if i < 24 then b2.getLsbD (i - 16) else b3.getLsbD (i - 24) := by
  simp only [joinBytes, BitVec.getLsbD_append, show i - 8 - 8 = i - 16 by omega, show i - 16 - 8 = i - 24 by omega]
  split_ifs <;> first | rfl | (exfalso; omega)

/-- A 32-bit value is its four bytes joined. -/
theorem joinBytes_split (v : BitVec 32) :
    joinBytes (v.extractLsb' 0 8) (v.extractLsb' 8 8) (v.extractLsb' 16 8) (v.extractLsb' 24 8) = v := by
  apply BitVec.eq_of_getLsbD_eq
  intro i hi
  rw [getLsbD_joinBytes]
  simp only [BitVec.getLsbD_extractLsb']
  by_cases h1 : i < 8
  · simp [h1]
  · by_cases h2 : i < 16
    · simp [h1, h2, show i - 8 < 8 by omega, show 8 + (i - 8) = i by omega]
    · by_cases h3 : i < 24
      · simp [h1, h2, h3, show i - 16 < 8 by omega, show 16 + (i - 16) = i by omega]
      · simp [h1, h2, h3, show i - 24 < 8 by omega, show 24 + (i - 24) = i by omega]

/-- Four bytes joined and split again. -/
theorem splitBytes_join (b0 b1 b2 b3 : Byte) : splitBytes (joinBytes b0 b1 b2 b3) = [b0, b1, b2, b3] := by
  have h : ∀ (k : Nat) (b : Byte), (∀ i, i < 8 → (joinBytes b0 b1 b2 b3).getLsbD (k + i) = b.getLsbD i) →
      (joinBytes b0 b1 b2 b3).extractLsb' k 8 = b := by
    intro k b hb
    apply BitVec.eq_of_getLsbD_eq
    intro i hi
    rw [BitVec.getLsbD_extractLsb', hb i hi, decide_eq_true hi, Bool.true_and]
  have h0 := h 0 b0 fun i hi => by rw [getLsbD_joinBytes, Nat.zero_add, if_pos hi]
  have h1 := h 8 b1 fun i hi => by
    rw [getLsbD_joinBytes, if_neg (by omega), if_pos (by omega), Nat.add_sub_cancel_left]
  have h2 := h 16 b2 fun i hi => by
    rw [getLsbD_joinBytes, if_neg (by omega), if_neg (by omega), if_pos (by omega), Nat.add_sub_cancel_left]
  have h3 := h 24 b3 fun i hi => by
    rw [getLsbD_joinBytes, if_neg (by omega), if_neg (by omega), if_neg (by omega), Nat.add_sub_cancel_left]
  rw [splitBytes, h0, h1, h2, h3]

/-- An integer that fits its field is read back. -/
theorem toInt_ofInt_of_fits (x : Int) (h : fitsField x = true) : (BitVec.ofInt 32 x).toInt = x := by
  simp only [fitsField, Bool.and_eq_true, decide_eq_true_eq] at h
  rw [BitVec.toInt_ofInt]
  exact Int.bmod_eq_of_le (by norm_num; omega) (by norm_num; omega)

/-- What a field holds fits it. -/
theorem fitsField_toInt (b : BitVec 32) : fitsField b.toInt = true := by
  have h1 := BitVec.le_toInt b
  have h2 := BitVec.toInt_lt (x := b)
  simp only [fitsField, Bool.and_eq_true, decide_eq_true_eq]
  omega

end Sys2Proof
end

