-- ==== Sys2Proof/Laws/Sequencer.lean ====
section
/-! SUPPORT. The sequencer: what a poll does, that running an operation looks at no stale `pending`, and that running it in
one step is ticking it through. -/

namespace Sys2Proof.Machine

/-- No primitive looks at what is pending. -/
theorem perform_pending (q : Prim) (s : State) (p : List Micro) :
    perform q { s with pending := p } = { perform q s with pending := p } := by
  cases q with
  | lineSample x => cases x <;> rfl
  | clearBuf buf => cases buf <;> rfl
  | accumulate buf => cases buf <;> (simp only [perform, State.accumulate]; split <;> rfl)
  | _ => rfl

/-- The same for a run of primitives. -/
theorem performAll_pending (qs : List Prim) (s : State) (p : List Micro) :
    performAll qs { s with pending := p } = { performAll qs s with pending := p } := by
  induction qs generalizing s with
  | nil => rfl
  | cons q qs ih => rw [performAll_cons, performAll_cons, perform_pending, ih]

/-- No primitive looks at the host's last answer, or changes it. -/
theorem perform_reply (q : Prim) (s : State) (r : Reply) :
    perform q { s with reply := r } = { perform q s with reply := r } := by
  cases q with
  | lineSample x => cases x <;> rfl
  | clearBuf buf => cases buf <;> rfl
  | accumulate buf => cases buf <;> (simp only [perform, State.accumulate]; split <;> rfl)
  | _ => rfl

/-- No step of the sequencer looks at the host's last answer, or changes it. -/
theorem tick_reply (s : State) (r : Reply) : tick { s with reply := r } = { tick s with reply := r } := by
  cases hp : s.pending with
  | nil => simp only [tick, hp]
  | cons m rest =>
    cases m with
    | prim q =>
      simp only [tick, hp]
      exact perform_reply q { s with pending := rest } r
    | routeSlot => simp only [tick, hp]
    | untilOne => simp only [tick, hp]; split <;> rfl

/-- The steps given are run, whatever the state says is pending. -/
theorem runSteps_pending (ms : List Micro) (s : State) (p : List Micro) :
    runSteps ms { s with pending := p } = runSteps ms s := by
  induction ms generalizing s with
  | nil => rfl
  | cons m ms ih =>
    cases m with
    | prim q => simp only [runSteps]; rw [perform_pending, ih]
    | routeSlot => simp only [runSteps]; rw [performAll_pending, ih]
    | untilOne => simp only [runSteps]; split <;> [exact ih s; rfl]

/-- Running steps is going on with an operation that has them pending. -/
theorem runSteps_eq_advance (ms : List Micro) (s : State) : runSteps ms s = advance { s with pending := ms } :=
  (runSteps_pending ms s ms).symm

/-- One completion poll (41_byte_framer.md R167): a 1 ends the wait, a 0 leaves the next poll pending. -/
theorem runSteps_pollUntilOne (c : Params) (rest : List Micro) (s : State) (hc : s.cfg = c) :
    runSteps (Proc.pollUntilOne c ++ rest) s =
      if s.answer 0 then
        runSteps rest { s with
          dir := .out, lvl := true, irqSaved := s.irqEn, latchB := s.answer 0, line := s.line.tail,
          draws := s.draws + 1, trace := s.trace ++ Trace.bit1 c (s.answer 0) }
      else
        { s with
          dir := .out, lvl := true, irqSaved := s.irqEn, latchB := s.answer 0, line := s.line.tail,
          draws := s.draws + 1, trace := s.trace ++ Trace.bit1 c (s.answer 0),
          pending := Proc.pollUntilOne c ++ rest } := by
  subst hc
  rw [Proc.pollUntilOne, List.append_assoc, runSteps_steps, performAll_readBit1]
  rfl

/-- `n` ticks. -/
def ticks : Nat → State → State
  | 0, s => s
  | n + 1, s => ticks n (tick s)

theorem ticks_add (m n : Nat) (s : State) : ticks (m + n) s = ticks n (ticks m s) := by
  induction m generalizing s with
  | zero => simp [ticks]
  | succ m ih => rw [Nat.add_right_comm]; exact ih (tick s)

/-- Primitives pending are performed one per tick. -/
theorem ticks_steps (ps : List Prim) (rest : List Micro) (s : State) :
    ticks ps.length { s with pending := Proc.steps ps ++ rest } = { performAll ps s with pending := rest } := by
  induction ps generalizing s with
  | nil => rfl
  | cons p ps ih =>
    have h : tick { s with pending := Proc.steps (p :: ps) ++ rest } =
        { perform p s with pending := Proc.steps ps ++ rest } := perform_pending p s _
    simp only [List.length_cons, ticks, performAll_cons]
    rw [h, ih]

/-- Running steps to their end, or to a poll that answered 0, is some number of ticks. -/
theorem runSteps_eq_ticks (ms : List Micro) (s : State) :
    ∃ n, runSteps ms s = ticks n { s with pending := ms } := by
  induction ms generalizing s with
  | nil => exact ⟨0, rfl⟩
  | cons m ms ih =>
    cases m with
    | prim p =>
      obtain ⟨n, hn⟩ := ih (perform p s)
      exact ⟨n + 1, hn.trans (congrArg (ticks n) (perform_pending p s ms).symm)⟩
    | routeSlot =>
      obtain ⟨n, hn⟩ := ih (performAll (Proc.slotW s.cfg (shiftBit s.shift s.bitIdx)) s)
      refine ⟨1 + ((Proc.slotW s.cfg (shiftBit s.shift s.bitIdx)).length + n), hn.trans ?_⟩
      rw [ticks_add, ticks_add]
      exact congrArg (ticks n) (ticks_steps _ ms s).symm
    | untilOne =>
      by_cases hb : s.latchB = true
      · obtain ⟨n, hn⟩ := ih s
        refine ⟨n + 1, ?_⟩
        show (if s.latchB then runSteps ms s else _) = ticks n (if s.latchB then { s with pending := ms } else _)
        rw [if_pos hb, if_pos hb, hn]
      · refine ⟨1, ?_⟩
        show (if s.latchB then _ else _) = if s.latchB then _ else _
        rw [if_neg hb, if_neg hb]

/-- The operation in progress goes on: some number of ticks. -/
theorem advance_eq_ticks (s : State) : ∃ n, advance s = ticks n s := runSteps_eq_ticks s.pending s

/-- A property that every tick keeps is kept by the operation going on. -/
theorem advance_keeps (P : State → Prop) (h : ∀ s, P s → P (tick s)) (s : State) (hs : P s) : P (advance s) := by
  obtain ⟨n, hn⟩ := advance_eq_ticks s
  rw [hn]
  clear hn
  induction n generalizing s with
  | zero => exact hs
  | succ n ih => exact ih (tick s) (h s hs)

/-- A step of the sequencer that is no primitive outside a given set. -/
def Micro.within (ok : Prim → Bool) : Micro → Bool
  | .prim p => ok p
  | .routeSlot => true
  | .untilOne => true

/-- A property that the primitives of a set keep, those of the write slots among them, is kept by every run of steps whose
primitives all lie in the set. -/
theorem runSteps_keeps (P : State → Prop) (ok : Prim → Bool) (hp : ∀ p s, ok p = true → P s → P (perform p s))
    (hpend : ∀ s ms, P s → P { s with pending := ms }) (hslot : ∀ c b, (Proc.slotW c b).all ok = true)
    (ms : List Micro) (hms : ms.all (Micro.within ok) = true) (s : State) (hs : P s) : P (runSteps ms s) := by
  have hall : ∀ (ps : List Prim) (t : State), ps.all ok = true → P t → P (performAll ps t) := by
    intro ps
    induction ps with
    | nil => exact fun t _ ht => ht
    | cons p ps ih =>
      intro t h ht
      rw [List.all_cons, Bool.and_eq_true] at h
      exact ih _ h.2 (hp p t h.1 ht)
  induction ms generalizing s with
  | nil => exact hpend s [] hs
  | cons m ms ih =>
    rw [List.all_cons, Bool.and_eq_true] at hms
    cases m with
    | prim p => exact ih hms.2 _ (hp p s hms.1 hs)
    | routeSlot => exact ih hms.2 _ (hall _ s (hslot _ _) hs)
    | untilOne =>
      rw [runSteps]
      split
      · exact ih hms.2 s hs
      · exact hpend s _ hs

/-- With no stimulus a step is the operation going on. -/
theorem step_of_inbox_nil (s : State) (h : s.inbox = []) : step s = .next (advance s) := by
  rw [step, serve, h]

/-- `k + 1` steps, the first of which is known. -/
theorem runMachine_succ {s t : State} (k : Nat) (h : step s = .next t) : runMachine (k + 1) s = runMachine k t := by
  rw [runMachine, h]

/-- `k + 1` steps, the last one apart. -/
theorem runMachine_snoc {s t u : State} (k : Nat) (h : runMachine k s = .next t) (hu : step t = .next u) :
    runMachine (k + 1) s = .next u := by
  induction k generalizing s with
  | zero => cases h; rw [runMachine_succ 0 hu]; rfl
  | succ k ih =>
    rw [runMachine] at h
    split at h
    · rename_i s' hs
      rw [runMachine_succ _ hs]
      exact ih h
    · cases h
    · cases h

/-- The host's `run` after a step that goes on. -/
theorem core_run_next {M : Host.Core} (k : Nat) {s t : M.State} (h : M.step s = .next t) :
    Host.Core.run M (k + 1) s = Host.Core.run M k t := by
  show (match M.step s with
    | .next t => Host.Core.run M k t
    | .fault r => .fault r
    | .refused r => .refused r) = _
  rw [h]

/-- The host's `run` after a step that faults. -/
theorem core_run_fault {M : Host.Core} (k : Nat) {s : M.State} {r : M.Fault} (h : M.step s = .fault r) :
    Host.Core.run M (k + 1) s = .fault r := by
  show (match M.step s with
    | .next t => Host.Core.run M k t
    | .fault r => .fault r
    | .refused r => .refused r) = _
  rw [h]

/-- The host's `run` after a step that is refused. -/
theorem core_run_refused {M : Host.Core} (k : Nat) {s : M.State} {r : M.Refusal} (h : M.step s = .refused r) :
    Host.Core.run M (k + 1) s = .refused r := by
  show (match M.step s with
    | .next t => Host.Core.run M k t
    | .fault r => .fault r
    | .refused r => .refused r) = _
  rw [h]

/-- `runMachine` is the host's `run` of the core. -/
theorem runMachine_eq_run (k : Nat) (s : State) : runMachine k s = Host.Core.run Sys2Proof.core k s := by
  induction k generalizing s with
  | zero => rfl
  | succ k ih =>
    rw [runMachine]
    cases h : step s with
    | next t => exact (ih t).trans (core_run_next (M := Sys2Proof.core) k h).symm
    | fault r => exact (core_run_fault (M := Sys2Proof.core) k h).symm
    | refused r => exact (core_run_refused (M := Sys2Proof.core) k h).symm

end Sys2Proof.Machine
end

