-- ==== Sys2Proof/Laws/WellFormed.lean ====
section
/-! SUPPORT. What well-formedness says: the sizes of a well-formed parameter record, the legal byte counts. -/

namespace Sys2Proof

/-- The sizes that a well-formed parameter record is pinned to (00_scope.md R5). -/
theorem Params.romBits_of_wf {c : Params} (h : c.wf = true) : c.romBits = 64 := by
  simp only [Params.wf, Bool.and_eq_true, decide_eq_true_eq] at h
  exact h.1.1.1.2

theorem Params.spBits_of_wf {c : Params} (h : c.wf = true) : c.spBits = 72 := by
  simp only [Params.wf, Bool.and_eq_true, decide_eq_true_eq] at h
  exact h.1.1.2

theorem Params.resDefault_of_wf {c : Params} (h : c.wf = true) : c.resDefault = 12 := by
  simp only [Params.wf, Bool.and_eq_true, decide_eq_true_eq] at h
  exact h.1.2

theorem Params.framerMaxBytes_of_wf {c : Params} (h : c.wf = true) : c.framerMaxBytes = 4 := by
  simp only [Params.wf, Bool.and_eq_true, decide_eq_true_eq] at h
  exact h.2

/-- The legal byte counts (41_byte_framer.md R169). -/
theorem legal_writeBytes {c : Params} (hc : c.framerMaxBytes = 4) (v : BitVec 32) (n : Int) :
    (Instr.writeBytes v n).legal c = true ↔ 1 ≤ n ∧ n ≤ 4 := by
  rw [Instr.legal, Bool.and_eq_true, decide_eq_true_eq, decide_eq_true_eq, hc]
  rfl

end Sys2Proof
end

