-- ==== Sys2Proof/Laws/Discipline.lean ====
section
/-! SUPPORT. The discipline of the pending steps (Safety): every procedure and every body keeps it, and a tick keeps the
invariant and the host's interrupt enable. -/

namespace Sys2Proof.Machine

/-- What a run of sequencer steps does to the shape; none where one of them breaks the discipline. -/
def Shape.micros : Shape → List Micro → Option Shape
  | sh, [] => some sh
  | sh, m :: ms => (sh.micro m).bind fun sh' => sh'.micros ms

theorem Shape.micros_append (sh : Shape) (ms ns : List Micro) :
    sh.micros (ms ++ ns) = (sh.micros ms).bind fun sh' => sh'.micros ns := by
  induction ms generalizing sh with
  | nil => rfl
  | cons m ms ih =>
    simp only [List.cons_append, Shape.micros, Option.bind_assoc]
    exact Option.bind_congr fun sh' _ => ih sh'

/-- Two runs after one another. -/
theorem Shape.micros_trans {a b c : Shape} {ms ns : List Micro} (h : a.micros ms = some b) (h' : b.micros ns = some c) :
    a.micros (ms ++ ns) = some c := by
  rw [Shape.micros_append, h]
  exact h'

/-- A run that the discipline allows, before steps that settle. -/
theorem settles_append {a b : Shape} {ms : List Micro} (h : a.micros ms = some b) (rest : List Micro) :
    settles a (ms ++ rest) = settles b rest := by
  induction ms generalizing a with
  | nil => cases h; rfl
  | cons m ms ih =>
    simp only [Shape.micros] at h
    cases hm : a.micro m with
    | none => rw [hm] at h; cases h
    | some a' =>
      rw [hm] at h
      have hne : m ≠ .prim .busyOff := by
        rintro rfl
        cases hm
      simp only [List.cons_append, settles, if_neg hne, hm]
      exact ih h

/-- The shape between regions, the line driven high. -/
abbrev Shape.rest (fresh : Bool) : Shape := ⟨.out, true, false, fresh⟩

/-- The shape inside a region, the line driven high. -/
abbrev Shape.region (fresh : Bool) : Shape := ⟨.out, true, true, fresh⟩

/-- `Reset()` keeps the discipline. -/
theorem micros_reset (c : Params) (f : Bool) :
    (Shape.rest f).micros (Proc.steps (Proc.reset c)) = some (Shape.rest f) := by
  cases f <;> rfl

/-- A write slot keeps the discipline inside a region. -/
theorem micros_slotW (c : Params) (b f : Bool) :
    (Shape.region f).micros (Proc.steps (Proc.slotW c b)) = some (Shape.region f) := by
  cases b <;> cases f <;> rfl

/-- A read slot keeps the discipline inside a region. -/
theorem micros_slotR (c : Params) (f : Bool) :
    (Shape.region f).micros (Proc.steps (Proc.slotR c)) = some (Shape.region f) := by
  cases f <;> rfl

/-- `ReadBit1()` keeps the discipline. -/
theorem micros_readBit1 (c : Params) (f : Bool) :
    (Shape.rest f).micros (Proc.steps (Proc.readBit1 c)) = some (Shape.rest f) := by
  cases f <;> rfl

/-- `PollUntilOne()` keeps the discipline. -/
theorem micros_pollUntilOne (c : Params) (f : Bool) :
    (Shape.rest f).micros (Proc.pollUntilOne c) = some (Shape.rest f) := by
  cases f <;> rfl

/-- A loop whose every turn comes back to the shape it started from. -/
theorem micros_turns {a : Shape} (turn : Nat → List Micro) (n : Nat) (h : ∀ k, k < n → a.micros (turn k) = some a) :
    a.micros ((List.range n).flatMap turn) = some a := by
  induction n with
  | zero => rfl
  | succ n ih =>
    rw [List.range_succ, List.flatMap_append, List.flatMap_singleton]
    exact Shape.micros_trans (ih fun k hk => h k (by omega)) (h n (by omega))

/-- The serializer's loop keeps the discipline. -/
theorem micros_writeTurn (k : Nat) (hk : k < 72) (f : Bool) :
    (Shape.region f).micros (Proc.writeTurn k) = some (Shape.region f) := by
  cases f <;> simp [Proc.writeTurn, Shape.micros, Shape.micro, Shape.prim, hk]

/-- `WriteBytes(v, n)` keeps the discipline. -/
theorem micros_writeBytes (v : BitVec 32) (n : Nat) (hn : n ≤ 9) (f : Bool) :
    (Shape.rest f).micros (Proc.writeBytes v n) = some (Shape.rest f) := by
  have h1 : (Shape.rest f).micros (Proc.steps [.maskEnter, .loadShift v]) = some (Shape.region f) := by
    cases f <;> rfl
  have h3 : (Shape.region f).micros (Proc.steps [.maskExit]) = some (Shape.rest f) := by cases f <;> rfl
  have h2 := micros_turns (a := Shape.region f) Proc.writeTurn (8 * n) fun k hk => micros_writeTurn k (by omega) f
  exact Shape.micros_trans (Shape.micros_trans h1 h2) h3

/-- A one-byte framer call keeps the discipline. -/
theorem micros_opcode (op : Byte) (f : Bool) :
    (Shape.rest f).micros (Proc.opcode op) = some (Shape.rest f) := micros_writeBytes _ 1 (by omega) f

/-- `FnPrologue(op)` keeps the discipline. -/
theorem micros_fnPrologue (c : Params) (op : Byte) (f : Bool) :
    (Shape.rest f).micros (Proc.fnPrologue c op) = some (Shape.rest f) :=
  Shape.micros_trans (Shape.micros_trans (micros_reset c f) (micros_opcode _ f)) (micros_opcode op f)

/-- The transmission of bytes keeps the discipline. -/
theorem micros_sendBytes (bs : List Byte) (f : Bool) :
    (Shape.rest f).micros (bs.flatMap Proc.opcode) = some (Shape.rest f) := by
  induction bs with
  | nil => rfl
  | cons b bs ih => exact Shape.micros_trans (micros_opcode b f) ih

/-- A loop given as primitives. -/
theorem steps_flatMap (ks : List Nat) (turn : Nat → List Prim) :
    Proc.steps (ks.flatMap turn) = ks.flatMap fun k => Proc.steps (turn k) := by
  simp only [Proc.steps, List.map_flatMap]

theorem steps_append (ps qs : List Prim) : Proc.steps (ps ++ qs) = Proc.steps ps ++ Proc.steps qs :=
  List.map_append

/-- `ReadBits(ROM, 64)` keeps the discipline. -/
theorem micros_readBits_rom (c : Params) (f : Bool) :
    (Shape.rest f).micros (Proc.steps (Proc.readBits c .rom 64)) = some (Shape.rest f) := by
  rw [Proc.readBits, steps_append, steps_append, steps_flatMap]
  refine Shape.micros_trans (Shape.micros_trans (b := Shape.region f) ?_ (micros_turns _ _ fun k hk => ?_)) ?_
  · cases f <;> rfl
  · have hk' : k < 72 := by omega
    cases f <;>
      simp [Proc.readTurn, Proc.slotR, Proc.steps, Shape.micros, Shape.micro, Shape.prim, hk']
  · cases f <;> rfl

/-- `ReadBits(SP, 72)` keeps the discipline; the decoded registers no longer match. -/
theorem micros_readBits_sp (c : Params) (f : Bool) :
    (Shape.rest f).micros (Proc.steps (Proc.readBits c .sp 72)) = some (Shape.rest false) := by
  rw [Proc.readBits, steps_append, steps_append, steps_flatMap]
  refine Shape.micros_trans (Shape.micros_trans (b := Shape.region false) ?_ (micros_turns _ _ fun k hk => ?_)) ?_
  · cases f <;> rfl
  · have hk' : k < 72 := hk
    simp [Proc.readTurn, Proc.slotR, Proc.steps, Shape.micros, Shape.micro, Shape.prim, hk']
  · rfl

theorem micros_bodyReadPowerSupply (s : State) (f : Bool) :
    (Shape.rest f).micros (bodyReadPowerSupply s) = some (Shape.rest f) := by
  rw [bodyReadPowerSupply, steps_append]
  exact Shape.micros_trans (micros_fnPrologue _ _ f) (Shape.micros_trans (micros_readBit1 _ f) (by cases f <;> rfl))

theorem micros_bodyReadScratchpad (s : State) (hn : s.cfg.spBits = 72) (f : Bool) :
    (Shape.rest f).micros (bodyReadScratchpad s) = some (Shape.rest true) := by
  rw [bodyReadScratchpad, hn, steps_append]
  exact Shape.micros_trans (micros_fnPrologue _ _ f) (Shape.micros_trans (micros_readBits_sp _ f) rfl)

theorem micros_bodyReadRom (s : State) (hn : s.cfg.romBits = 64) (f : Bool) :
    (Shape.rest f).micros (bodyReadRom s) = some (Shape.rest f) := by
  rw [bodyReadRom, Proc.romRead, hn]
  exact Shape.micros_trans (micros_reset _ f) (Shape.micros_trans (micros_opcode _ f) (micros_readBits_rom _ f))

/-- Every legal operation's body keeps the discipline and leaves the decoded registers matching. -/
theorem micros_bodyOf (i : Instr) (s : State) (hwf : s.cfg.wf = true) (hl : i.legal s.cfg = true) :
    (Shape.rest true).micros (bodyOf i s) = some (Shape.rest true) := by
  have hr := Params.romBits_of_wf hwf
  have hs := Params.spBits_of_wf hwf
  cases i with
  | readRom => exact micros_bodyReadRom s hr true
  | matchRom =>
    rw [bodyOf, bodyMatchRom, Proc.romMatch]
    exact Shape.micros_trans (micros_reset _ _) (Shape.micros_trans (micros_opcode _ _) (micros_sendBytes _ _))
  | skipRom => exact Shape.micros_trans (micros_reset _ _) (micros_opcode _ _)
  | alarmSearch =>
    rw [bodyOf, bodyAlarmSearch, Proc.romAlarm, steps_append]
    exact Shape.micros_trans (micros_reset _ _)
      (Shape.micros_trans (micros_opcode _ _) (Shape.micros_trans (micros_readBit1 _ _) rfl))
  | convertT =>
    rw [bodyOf, bodyConvertT]
    refine Shape.micros_trans (micros_fnPrologue _ _ _) ?_
    split
    · rfl
    · exact micros_pollUntilOne _ _
  | writeScratchpad th tl res => exact Shape.micros_trans (micros_fnPrologue _ _ _) (micros_writeBytes _ 3 (by omega) _)
  | readScratchpad => exact micros_bodyReadScratchpad s hs true
  | copyScratchpad =>
    rw [bodyOf, bodyCopyScratchpad]
    refine Shape.micros_trans (micros_fnPrologue _ _ _) ?_
    split <;> rfl
  | recallE2 => exact Shape.micros_trans (micros_fnPrologue _ _ _) (micros_pollUntilOne _ _)
  | readPowerSupply => exact micros_bodyReadPowerSupply s true
  | reset => exact micros_reset _ _
  | write0 => rfl
  | write1 => rfl
  | readbit =>
    rw [bodyOf, bodyReadbit, steps_append]
    exact Shape.micros_trans (micros_readBit1 _ _) rfl
  | writeBytes v n =>
    have h4 := (legal_writeBytes (Params.framerMaxBytes_of_wf hwf) v n).1 hl
    have h9 : n.toNat ≤ 9 := by omega
    exact micros_writeBytes v _ h9 _
  | init =>
    exact Shape.micros_trans (Shape.micros_trans (micros_bodyReadPowerSupply s true) (micros_bodyReadScratchpad s hs true))
      (micros_bodyReadRom s hr true)

/-- Steps that settle tell by themselves whether they stand in a region. -/
theorem inRegion_of_settles {sh : Shape} {ms : List Micro} (h : settles sh ms = true) : inRegion ms = sh.masked := by
  induction ms generalizing sh with
  | nil => cases h
  | cons m ms ih =>
    rw [settles] at h
    split at h
    · rename_i hm
      subst hm
      simp only [Bool.and_eq_true, Shape.outside, List.isEmpty_iff] at h
      obtain ⟨⟨rfl, h⟩, -⟩ := h
      simpa [inRegion] using h.2
    · cases hm : sh.micro m with
      | none => rw [hm] at h; cases h
      | some sh' =>
        rw [hm] at h
        have hr := ih h
        cases m with
        | prim p =>
          cases p with
          | clearBuf b => cases b <;> (cases hm; exact hr)
          | accumulate b => cases b <;> (cases hm; exact hr)
          | busyOff => cases hm
          | _ =>
            simp only [Shape.micro, Shape.prim, Option.ite_none_right_eq_some, Option.some.injEq, Shape.outside,
              Bool.and_eq_true, Bool.not_eq_true'] at hm
            obtain ⟨hg, rfl⟩ := hm
            simp_all [inRegion]
        | routeSlot =>
          simp only [Shape.micro, Option.ite_none_right_eq_some, Option.some.injEq] at hm
          obtain ⟨-, rfl⟩ := hm
          exact hr
        | untilOne =>
          simp only [Shape.micro, Option.ite_none_right_eq_some, Option.some.injEq] at hm
          obtain ⟨-, rfl⟩ := hm
          exact hr

/-- What settling steps that begin with `m`, not `BUSY <- 0`, say. -/
theorem settles_cons {sh : Shape} {m : Micro} {rest : List Micro} (hm : m ≠ .prim .busyOff) :
    settles sh (m :: rest) = true ↔ ∃ sh', sh.micro m = some sh' ∧ settles sh' rest = true := by
  rw [settles, if_neg hm]
  cases sh.micro m <;> simp

/-- Settling steps that begin with `BUSY <- 0`. -/
theorem settles_busyOff {sh : Shape} {rest : List Micro} :
    settles sh (.prim .busyOff :: rest) = true ↔ rest = [] ∧ sh.outside = true ∧ sh.fresh = true := by
  rw [settles, if_pos rfl]
  simp [List.isEmpty_iff, and_assoc]

/-- A tick of an operation in progress: the invariant holds after it. -/
theorem perform_busyInv {s : State} {p : Prim} {rest : List Micro} (hp : s.pending = .prim p :: rest)
    (hne : p ≠ .busyOff) (h : BusyInv s) : BusyInv (perform p { s with pending := rest }) := by
  obtain ⟨m, f, hs, hirq, hdec⟩ := h
  rw [hp, settles_cons (by simpa using hne)] at hs
  obtain ⟨sh', hsh, hset⟩ := hs
  cases p with
  | busyOff => exact absurd rfl hne
  | clearBuf b =>
    cases b <;> (cases hsh; exact ⟨m, _, hset, hirq, by first | exact hdec | exact nofun⟩)
  | accumulate b =>
    cases b <;> cases hsh
    · refine ⟨m, f, ?_, ?_, ?_⟩ <;> simp only [perform, State.accumulate] <;> split <;> assumption
    · refine ⟨m, false, ?_, ?_, nofun⟩ <;> simp only [perform, State.accumulate] <;> split <;> assumption
  | lineSample x =>
    simp only [Shape.micro, Shape.prim, Option.ite_none_right_eq_some, Option.some.injEq] at hsh
    obtain ⟨-, rfl⟩ := hsh
    cases x <;> exact ⟨m, f, hset, hirq, hdec⟩
  | decodeScratchpad => cases hsh; exact ⟨m, true, hset, hirq, fun _ => ⟨rfl, rfl, rfl, rfl⟩⟩
  | maskEnter =>
    simp only [Shape.micro, Shape.prim, Option.ite_none_right_eq_some, Option.some.injEq] at hsh
    obtain ⟨-, rfl⟩ := hsh
    exact ⟨true, f, hset, fun _ => rfl, hdec⟩
  | maskExit =>
    simp only [Shape.micro, Shape.prim, Option.ite_none_right_eq_some, Option.some.injEq] at hsh
    obtain ⟨-, rfl⟩ := hsh
    exact ⟨false, f, hset, nofun, hdec⟩
  | lineOutLow | lineOutHigh | lineRelease | waitUs n | waitMs n | setBitIdx k =>
    simp only [Shape.micro, Shape.prim, Option.ite_none_right_eq_some, Option.some.injEq] at hsh
    obtain ⟨-, rfl⟩ := hsh
    exact ⟨m, f, hset, hirq, hdec⟩
  | loadShift v | setDetected | setAlarm | setParasite | handRb => cases hsh; exact ⟨m, f, hset, hirq, hdec⟩

/-- A primitive other than the register transfers leaves the resolution a legal one, the parameters as they are and the
bit counter in range. -/
theorem perform_ranges {s : State} {p : Prim} {rest : List Micro} (hp : s.pending = .prim p :: rest) (hb : BusyInv s)
    (hr : s.cfg.resDefault = 12) (h9 : 9 ≤ s.res) (h12 : s.res ≤ 12) (hi : s.bitIdx < 72) :
    (perform p { s with pending := rest }).cfg = s.cfg ∧ 9 ≤ (perform p { s with pending := rest }).res ∧
      (perform p { s with pending := rest }).res ≤ 12 ∧ (perform p { s with pending := rest }).bitIdx < 72 := by
  cases p with
  | lineSample x => cases x <;> exact ⟨rfl, h9, h12, hi⟩
  | clearBuf b => cases b <;> exact ⟨rfl, h9, h12, hi⟩
  | accumulate b =>
    cases b <;> (simp only [perform, State.accumulate]; split <;> exact ⟨rfl, h9, h12, hi⟩)
  | setBitIdx k =>
    obtain ⟨m, f, hs, -⟩ := hb
    rw [hp, settles_cons (by simp)] at hs
    obtain ⟨sh', hsh, -⟩ := hs
    simp only [Shape.micro, Shape.prim, Option.ite_none_right_eq_some] at hsh
    exact ⟨rfl, h9, h12, hsh.1⟩
  | decodeScratchpad =>
    refine ⟨rfl, ?_, ?_, hi⟩ <;> simp only [perform, State.decodeScratchpad, decodeRes, hr] <;>
      split <;> omega
  | busyOff => exact ⟨rfl, h9, h12, (Config.idleBitIdx _).isLt⟩
  | _ => exact ⟨rfl, h9, h12, hi⟩

end Sys2Proof.Machine
end

