-- ==== Sys2Proof/Laws/PerInstr.lean ====
section
/-! SUPPORT. Statements made per instruction. Family `Encoding`: the command word of an operation begins with its code, is
no longer than the longest one, and the code is one of the sixteen of 30_encoding.md R106. -/

namespace Sys2Proof.Laws.Encoding

/-- The command word begins with the code, is no longer than the longest, and is never refused as a reserved code. -/
def Statement (i : Instr) : Prop :=
  (encode i).head? = some i.code ∧ (encode i).length ≤ maxCommandBytes ∧
    ∀ operands, decode (i.code :: operands) ≠ .error (.reservedCode i.code)

theorem readRom : Statement .readRom := ⟨rfl, by decide, nofun⟩

theorem matchRom : Statement .matchRom := ⟨rfl, by decide, nofun⟩

theorem skipRom : Statement .skipRom := ⟨rfl, by decide, nofun⟩

theorem alarmSearch : Statement .alarmSearch := ⟨rfl, by decide, nofun⟩

theorem convertT : Statement .convertT := ⟨rfl, by decide, nofun⟩

theorem writeScratchpad (th tl : Byte) (res : Int) : Statement (.writeScratchpad th tl res) := by
  refine ⟨rfl, (by decide : 7 ≤ 9), fun operands h => ?_⟩
  replace h : decodeWriteScratchpad 0x4E#8 operands = .error (.reservedCode 0x4E#8) := h
  unfold decodeWriteScratchpad at h
  split at h <;> cases h

theorem readScratchpad : Statement .readScratchpad := ⟨rfl, by decide, nofun⟩

theorem copyScratchpad : Statement .copyScratchpad := ⟨rfl, by decide, nofun⟩

theorem recallE2 : Statement .recallE2 := ⟨rfl, by decide, nofun⟩

theorem readPowerSupply : Statement .readPowerSupply := ⟨rfl, by decide, nofun⟩

theorem reset : Statement .reset := ⟨rfl, by decide, nofun⟩

theorem write0 : Statement .write0 := ⟨rfl, by decide, nofun⟩

theorem write1 : Statement .write1 := ⟨rfl, by decide, nofun⟩

theorem readbit : Statement .readbit := ⟨rfl, by decide, nofun⟩

theorem writeBytes (v : BitVec 32) (n : Int) : Statement (.writeBytes v n) := by
  refine ⟨rfl, (by decide : 9 ≤ 9), fun operands h => ?_⟩
  replace h : decodeWriteBytes 0x05#8 operands = .error (.reservedCode 0x05#8) := h
  unfold decodeWriteBytes at h
  split at h <;> cases h

theorem init : Statement .init := ⟨rfl, by decide, nofun⟩

end Sys2Proof.Laws.Encoding
end

