-- ==== Sys2Proof/Laws/Traces.lean ====
section
/-! SUPPORT. What is read off the waveforms: low times (00_scope.md R8) and sums of waits (70_reset_and_hazards.md R320). -/

namespace Sys2Proof.Machine.Trace

/-- The low times of write slots, whatever follows them (41_byte_framer.md R161). -/
theorem lowTimesFrom_slots (c : Params) (f : Nat → Bool) (ks : List Nat) (rest : List Event) :
    lowTimesFrom none ((ks.flatMap fun k => slot c (f k)) ++ rest) =
      (ks.map fun k => if f k then c.tW1l else c.tW0l) ++ lowTimesFrom none rest := by
  induction ks with
  | nil => rfl
  | cons k ks ih =>
    simp only [List.flatMap_cons, List.append_assoc, List.map_cons, List.cons_append, ← ih]
    cases f k <;> simp [slot, w0, w1, lowTimesFrom]

/-- The low times of a framer call. -/
theorem lowTimesFrom_bytes (c : Params) (v : BitVec 32) (n : Nat) (rest : List Event) :
    lowTimesFrom none (bytes c v n ++ rest) =
      ((List.range (8 * n)).map fun k => if v.getLsbD k then c.tW1l else c.tW0l) ++ lowTimesFrom none rest := by
  rw [bytes]
  simp only [List.cons_append, List.append_assoc, lowTimesFrom]
  rw [lowTimesFrom_slots]
  rfl

/-- The low times of one byte. -/
theorem lowTimesFrom_w (c : Params) (x : Byte) (rest : List Event) :
    lowTimesFrom none (w c x ++ rest) =
      ((List.range 8).map fun k => if x.getLsbD k then c.tW1l else c.tW0l) ++ lowTimesFrom none rest := by
  rw [w, lowTimesFrom_bytes]
  refine congrArg (· ++ _) (List.map_congr_left fun k hk => ?_)
  have h8 : k < 8 := by simpa using hk
  simp [show k < 32 by omega]

/-- The one low pulse of the reset waveform. -/
theorem lowTimesFrom_rst (c : Params) (s1 s2 : Bool) (rest : List Event) :
    lowTimesFrom none (rst c s1 s2 ++ rest) = c.tRstl :: lowTimesFrom none rest := by
  simp [rst, lowTimesFrom]

@[simp] theorem totalUs_append (a b : List Event) : totalUs (a ++ b) = totalUs a + totalUs b := by
  simp [totalUs]

@[simp] theorem totalMs_append (a b : List Event) : totalMs (a ++ b) = totalMs a + totalMs b := by
  simp [totalMs]

/-- The microseconds of repeated waveforms of one length. -/
theorem totalUs_flatMap {α : Type} (l : List α) (f : α → List Event) (n : Nat) (h : ∀ a, totalUs (f a) = n) :
    totalUs (l.flatMap f) = l.length * n := by
  induction l with
  | nil => simp [totalUs]
  | cons a l ih => simp [ih, h, Nat.add_mul, Nat.add_comm]

/-- The milliseconds of repeated waveforms without a long wait. -/
theorem totalMs_flatMap {α : Type} (l : List α) (f : α → List Event) (h : ∀ a, totalMs (f a) = 0) :
    totalMs (l.flatMap f) = 0 := by
  induction l with
  | nil => rfl
  | cons a l ih => simp [ih, h]

/-- A framer call holds no long wait. -/
theorem totalMs_bytes (c : Params) (v : BitVec 32) (n : Nat) : totalMs (bytes c v n) = 0 := by
  rw [bytes, totalMs_append, ← List.singleton_append, totalMs_append, totalMs_flatMap]
  · rfl
  · intro k
    cases v.getLsbD k <;> rfl

/-- The prologue holds no long wait. -/
theorem totalMs_prologue (c : Params) (s1 s2 : Bool) (op : Byte) : totalMs (prologue c s1 s2 op) = 0 := by
  simp only [prologue, totalMs_append, w, totalMs_bytes]
  rfl

end Sys2Proof.Machine.Trace
end

