-- ==== Sys2Proof/Tests/Slice0.lean ====
section
/-! SUPPORT. Tests. Expected results are the worked examples of the rules and the vectors of spec/95_test_vectors.md (their
ids stand in the comments), or the encodings of 30_encoding.md written out; the last part shows, for every obligation with
hypotheses, states and operands that meet them all. -/

namespace Sys2Proof.Tests

open Sys2Proof Sys2Proof.Machine

/-- The bits of bytes in wire order, bit 0 of byte 0 first. -/
def wire (bs : List Byte) : List Bool := bs.flatMap fun b => (List.range 8).map b.getLsbD

/-- One step: the host starts this command word, the environment answers these bits. -/
def run (s : State) (answers : List Bool) (command : List Byte) : Host.Outcome State Fault Refusal :=
  step { s with line := answers, inbox := [.start command] }

/-- The outcome is a next state of which `p` holds. -/
def goes (o : Host.Outcome State Fault Refusal) (p : State → Bool) : Bool :=
  match o with
  | .next s => p s
  | .fault _ => false
  | .refused _ => false

/-- The slots of a trace as bits: write-one where the low time is 3. -/
def slots (t : List Event) : List Bool := (Trace.lowTimes t).map (· == 3)

/-- The device code of 95_test_vectors.md, section 2.3. -/
def code : List Byte := [0x28#8, 0xFF#8, 0x4B#8, 0x46#8, 0xC0#8, 0x17#8, 0x02#8, 0x9A#8]

/-- The scratchpad of V-FN8. -/
def pad : List Byte := [0x90#8, 0x01#8, 0x4B#8, 0x46#8, 0x7F#8, 0xFF#8, 0x0C#8, 0x10#8, 0x00#8]

/-! ### WellFormed -/

theorem test_wf_byteCount_zero : (Instr.writeBytes 0x55#32 0).wf {} = false := by decide

theorem test_wf_byteCount_five : (Instr.writeBytes 0x55#32 5).wf {} = false := by decide

theorem test_wf_byteCount_negative : (Instr.writeBytes 0x55#32 (-1)).wf {} = false := by decide

theorem test_wf_byteCount_legal : (Instr.writeBytes 0x55#32 1).wf {} = true ∧ (Instr.writeBytes 0x55#32 4).wf {} = true := by
  decide

theorem test_wf_resolution_field_high : (Instr.writeScratchpad 0#8 0#8 2147483648).wf {} = false := by decide

theorem test_wf_resolution_field_low : (Instr.writeScratchpad 0#8 0#8 (-2147483649)).wf {} = false := by decide

theorem test_wf_resolution_any : (Instr.writeScratchpad 0#8 0#8 (-3)).wf {} = true := by decide

/-- Each constraint of 00_scope.md R5 refuses a record that breaks it, and the table's own values pass. -/
theorem test_wf_params :
    ({} : Params).wf = true ∧
    [({ tRstl := 479 } : Params), { tPds := 60 }, { tPds := 75 }, { tRsthRest := 409 }, { tW0l := 59 }, { tRec := 0 },
      { tW1l := 15 }, { tW1h := 56 }, { tRdl := 6 }, { tRds := 13 }, { tRdRest := 47 }, { tCopyMs := 9 }, { cfgReserved := 0x3F#8 },
      { cfgReserved := 0x5F#8 }, { romBits := 63 }, { spBits := 64 }, { resDefault := 11 }, { framerMaxBytes := 5 }].all (fun c => !c.wf) = true := by decide

/-! ### Decoding (30_encoding.md R106: the code byte written out from the table) -/

theorem test_decode_timeSlotFamily :
    decode [0b00000001#8] = .ok .reset ∧ decode [0b00000010#8] = .ok .write0 ∧ decode [0b00000011#8] = .ok .write1 ∧
    decode [0b00000100#8] = .ok .readbit := by decide

/-- `05 v=0x000000BE n=1` of program P4, and a negative count. -/
theorem test_decode_writeBytes :
    decode [0b00000101#8, 0xBE#8, 0#8, 0#8, 0#8, 1#8, 0#8, 0#8, 0#8] = .ok (.writeBytes 0x000000BE#32 1) ∧
    decode [0b00000101#8, 0x78#8, 0x56#8, 0x34#8, 0x12#8, 0xFF#8, 0xFF#8, 0xFF#8, 0xFF#8] =
      .ok (.writeBytes 0x12345678#32 (-1)) := by decide

theorem test_decode_romFamily :
    decode [0b00110011#8] = .ok .readRom ∧ decode [0b01010101#8] = .ok .matchRom ∧
    decode [0b11001100#8] = .ok .skipRom ∧ decode [0b11101100#8] = .ok .alarmSearch := by decide

theorem test_decode_functionFamily :
    decode [0b01000100#8] = .ok .convertT ∧ decode [0b10111110#8] = .ok .readScratchpad ∧
    decode [0b01001000#8] = .ok .copyScratchpad ∧ decode [0b10111000#8] = .ok .recallE2 ∧
    decode [0b10110100#8] = .ok .readPowerSupply := by decide

/-- `4E th=0x19 tl=0xF6 res=10` of program P2: `th = 25`, `tl = -10`. -/
theorem test_decode_writeScratchpad :
    decode [0b01001110#8, 0x19#8, 0xF6#8, 10#8, 0#8, 0#8, 0#8] = .ok (.writeScratchpad (u8 25) (u8 (-10)) 10) := by
  decide

theorem test_decode_init : decode [0b00000110#8] = .ok .init := by decide

/-- V-RF1. -/
theorem test_decode_reserved :
    [0x00#8, 0x07#8, 0x32#8, 0xF0#8, 0xFF#8].all
      (fun c => decide (decode [c] = .error (.reservedCode c))) = true := by decide

theorem test_decode_short :
    decode [] = .error .noCode ∧ decode [0x4E#8, 0x19#8] = .error (.missingOperands 0x4E#8) := by decide

theorem test_decodeTableWord :
    decodeTableWord 8 0x33 = some .readRom ∧ decodeTableWord 8 0x4E = some (.writeScratchpad 0#8 0#8 0) ∧
    decodeTableWord 8 0x05 = some (.writeBytes 0#32 0) ∧ decodeTableWord 8 0x07 = none := by decide

theorem test_encode_writeScratchpad :
    encode (.writeScratchpad (u8 25) (u8 (-10)) (-3)) =
      [0x4E#8, 0x19#8, 0xF6#8, 0xFD#8, 0xFF#8, 0xFF#8, 0xFF#8] := by decide

theorem test_withFetchWord_runs :
    goes (step (State.reset.withFetchWord 8 0xCC)) (fun t => t.reply == .accepted && !t.busy && t.draws == 2) = true := by
  decide +kernel

/-! ### Time-slot layer -/

/-- V-TS1. -/
theorem test_reset_present :
    goes (run State.reset [false, true] [0x01#8]) (fun t => t.detected && t.trace ==
      [.mask, .low, .waitUs 550, .release, .waitUs 70, .sample false, .waitUs 410, .sample true, .high, .unmask]) =
      true := by decide +kernel

/-- V-TS3, and V-TS5: the flag is overwritten. -/
theorem test_reset_heldLow :
    goes (run { State.reset with detected := true } [false, false] [0x01#8]) (fun t => !t.detected) = true := by
  decide +kernel

/-- V-TS6. -/
theorem test_write0 :
    goes (run State.reset [] [0x02#8]) (fun t => t.trace == [.mask, .low, .waitUs 65, .high, .waitUs 3, .unmask]) =
      true := by decide +kernel

/-- V-TS7, and V-TS10: interrupts that were disabled stay disabled. -/
theorem test_write1 :
    goes (run { State.reset with irqEn := false } [] [0x03#8]) (fun t =>
      !t.irqEn && t.trace == [.mask, .low, .waitUs 3, .high, .waitUs 65, .unmask]) = true := by decide +kernel

/-- V-TS8. -/
theorem test_readbit_zero :
    goes (run State.reset [false] [0x04#8]) (fun t => t.rb == some false && t.trace ==
      [.mask, .low, .waitUs 3, .release, .waitUs 10, .sample false, .waitUs 55, .high, .unmask]) = true := by
  decide +kernel

/-- V-TS9. -/
theorem test_readbit_one : goes (run State.reset [true] [0x04#8]) (fun t => t.rb == some true) = true := by
  decide +kernel

/-! ### Byte framer -/

/-- V-FR10: one region of sixteen slots. -/
theorem test_writeBytes_two :
    goes (run State.reset [] (encode (.writeBytes 0xF619#32 2))) (fun t =>
      slots t.trace == [true, false, false, true, true, false, false, false,
        false, true, true, false, true, true, true, true] && t.trace.count .mask == 1) = true := by decide +kernel

/-- V-FR13. -/
theorem test_writeBytes_refused :
    goes (run State.reset [] (encode (.writeBytes 0x55#32 5)))
      (fun t => t == { State.reset with reply := .refusedStart .byteCount }) = true := by decide +kernel

/-! ### ROM commands -/

/-- V-ROM1. -/
theorem test_readRom_code :
    goes (run State.reset ([false, true] ++ wire code) [0x33#8]) (fun t =>
      t.rom.toList == code && t.detected && t.line == []) = true := by
  decide +kernel

/-- V-ROM3: overwritten, by zeros. -/
theorem test_readRom_overwrites :
    goes (run { State.reset with rom := Vector.replicate 8 0x5A#8 } ([false, true] ++ List.replicate 64 false) [0x33#8])
      (fun t => t.rom == Vector.replicate 8 0x00#8) = true := by decide +kernel

/-- V-ROM5: after the reset pulse, the slots of 55 and the 64 bits of the code. -/
theorem test_matchRom_code :
    goes (run { State.reset with rom := #v[0x28#8, 0xFF#8, 0x4B#8, 0x46#8, 0xC0#8, 0x17#8, 0x02#8, 0x9A#8] }
      [false, true] [0x55#8]) (fun t =>
        slots t.trace == [false, true, false, true, false, true, false, true, false] ++ wire code &&
        t.trace.count .mask == 10) = true := by decide +kernel

/-- V-ROM7. -/
theorem test_skipRom :
    goes (run State.reset [false, true] [0xCC#8]) (fun t =>
      slots t.trace == [false, false, false, true, true, false, false, true, true] && t.detected) = true := by
  decide +kernel

/-- V-ROM8. -/
theorem test_alarmSearch_active :
    goes (run State.reset [false, true, false] [0xEC#8]) (fun t => t.alarm && Trace.totalUs t.trace == 1642) = true := by
  decide +kernel

/-- V-ROM9. -/
theorem test_alarmSearch_overwrites :
    goes (run { State.reset with alarm := true } [false, true, true] [0xEC#8]) (fun t => !t.alarm) = true := by
  decide +kernel

/-! ### Function commands -/

/-- V-FN2: parasite power, 10 bits. -/
theorem test_convertT_parasite :
    goes (run { State.reset with parasite := true, res := 10 } [false, true] [0x44#8])
      (fun t => t.trace.getLast? == some (.waitMs 200) && !t.busy) = true := by decide +kernel

/-- V-FN3, the first poll: still busy, interrupts back on, the line high. -/
theorem test_convertT_polls :
    goes (run State.reset [false, true, false, false, true] [0x44#8]) (fun t =>
      t.busy && t.irqEn && t.lvl && t.line == [false, true] && Trace.totalMs t.trace == 0) = true := by decide +kernel

/-- V-FN6: 24 payload slots in one region; the block's own thresholds and resolution stay. -/
theorem test_writeScratchpad_payload :
    goes (run State.reset [false, true] (encode (.writeScratchpad (u8 25) (u8 (-10)) 10))) (fun t =>
      (slots t.trace).drop 17 == [true, false, false, true, true, false, false, false, false, true, true, false, true,
        true, true, true, true, true, true, true, true, true, false, false] &&
      t.trace.count .mask == 4 && t.th == 0#8 && t.res == 12) = true := by decide +kernel

/-- V-FN7. -/
theorem test_writeScratchpad_values :
    scratchpadPayload {} (u8 25) (u8 (-10)) 13 = 0x7FF619#32 ∧ scratchpadPayload {} (u8 127) (u8 (-128)) 9 = 0x1F807F#32 ∧
    scratchpadPayload {} (u8 0) (u8 0) 11 = 0x5F0000#32 ∧ scratchpadPayload {} (u8 (-1)) (u8 (-1)) (-3) = 0x7FFFFF#32 := by
  decide

/-- V-FN8. -/
theorem test_readScratchpad_pad :
    goes (run State.reset ([false, true] ++ wire pad) [0xBE#8]) (fun t =>
      t.sp.toList == pad && t.tempRaw == 400#16 && t.th == 75#8 && t.tl == 70#8 && t.res == 12) = true := by
  decide +kernel

/-- V-FN11, over an `SP` of all ones (V-FR15). -/
theorem test_readScratchpad_heldLow :
    goes (run { State.reset with sp := Vector.replicate 9 0xFF#8 } (List.replicate 74 false) [0xBE#8]) (fun t =>
      t.sp == Vector.replicate 9 0x00#8 && t.tempRaw == 0#16 && t.res == 12 && !t.detected) = true := by decide +kernel

/-- V-FN12. -/
theorem test_copyScratchpad_parasite :
    goes (run { State.reset with parasite := true } [false, true] [0x48#8])
      (fun t => t.trace.getLast? == some (.waitMs 12)) = true := by decide +kernel

/-- V-FN13. -/
theorem test_copyScratchpad_external :
    goes (run State.reset [false, true] [0x48#8])
      (fun t => Trace.totalUs t.trace == 2118 && t.trace.getLast? == some .unmask) = true := by decide +kernel

/-- V-FN14. -/
theorem test_recallE2_ready :
    goes (run State.reset [false, true, true] [0xB8#8]) (fun t => !t.busy && Trace.totalUs t.trace == 2186) = true := by
  decide +kernel

/-- V-FN15, the first poll: `PARASITE` makes no difference. -/
theorem test_recallE2_parasite :
    goes (run { State.reset with parasite := true } [false, true, false, true] [0xB8#8])
      (fun t => t.busy && Trace.totalMs t.trace == 0) = true := by decide +kernel

/-- V-FN16. -/
theorem test_readPowerSupply_parasite :
    goes (run State.reset [false, true, false] [0xB4#8]) (fun t => t.parasite) = true := by decide +kernel

/-- V-FN17. -/
theorem test_readPowerSupply_overwrites :
    goes (run { State.reset with parasite := true } [false, true, true] [0xB4#8]) (fun t => !t.parasite) = true := by
  decide +kernel

/-! ### Decode pipeline and INIT -/

/-- 95_test_vectors.md section 2.5: the temperature words. -/
theorem test_temperature_words :
    (temperatureWord (Vector.replicate 9 0xFF#8)).toInt = -1 ∧
    (temperatureWord #v[0x90#8, 0xFC#8, 0#8, 0#8, 0#8, 0#8, 0#8, 0#8, 0#8]).toInt = -880 ∧
    (temperatureWord #v[0x00#8, 0x80#8, 0#8, 0#8, 0#8, 0#8, 0#8, 0#8, 0#8]).toInt = -32768 := by decide

/-- 95_test_vectors.md section 2.5: the resolution table. -/
theorem test_decodeRes_table :
    [0x1F#8, 0x3F#8, 0x5F#8, 0x7F#8, 0x00#8, 0xFF#8, 0x9F#8, 0x1E#8, 0x20#8, 0x3E#8, 0xDF#8, 0x60#8, 0x7E#8].map
      (decodeRes {}) = [9, 10, 11, 12, 12, 12, 12, 12, 12, 12, 12, 12, 12] := by decide

/-- Program P1: the end state, and 143 samples taken. -/
theorem test_init_registers :
    goes (run State.reset ([false, true, true] ++ [false, true] ++ wire pad ++ [false, true] ++ wire code) [0x06#8])
      (fun t => t.detected && !t.parasite && t.sp.toList == pad && t.rom.toList == code && t.tempRaw == 400#16 &&
        t.th == 75#8 && t.tl == 70#8 && t.res == 12 && t.draws == 143) = true := by decide +kernel

/-! ### Host port -/

/-- V-RF2. -/
theorem test_start_while_busy :
    goes (run { State.reset with busy := true, pending := [.prim (.waitMs 800), .prim .busyOff] } [] [0xCC#8])
      (fun t => t.reply == .refusedStart .busy && t.trace == [] && t.pending.length == 2) = true := by decide

/-- 70_reset_and_hazards.md R300: a start refused just before READBIT completes does not take `RB` from the host. -/
theorem test_start_refused_keeps_rb :
    goes (run { State.reset with busy := true, curOp := .readbit, rb := some false, pending := [.prim .busyOff] } []
      [0x04#8]) (fun t => t.reply == .refusedStart .busy && t.rb == some false) = true := by decide

/-- V-RF3. -/
theorem test_capabilities :
    goes (step { State.reset with inbox := [.read .capCrc] }) (fun t => t.reply == .value (.flag false)) = true := by
  decide

/-- 93_implementation_defined.md U13. -/
theorem test_irq_write_while_busy :
    step { State.reset with busy := true, inbox := [.setIrqEn false] } = .fault .irqEnWrittenWhileBusy := rfl

/-! ### States and operands that meet the hypotheses of the obligations -/

/-- A block in mid-operation: in the middle of a read slot, the line released, before its sample. -/
def midSlot : State :=
  { State.reset with
    busy := true
    dir := .inp
    lvl := false
    irqEn := false
    irqSaved := true
    curOp := .readbit
    pending := Proc.steps [.lineSample .b, .waitUs 55, .lineOutHigh, .maskExit, .handRb, .busyOff] }

/-- A block between two completion polls. -/
def polling : State :=
  { State.reset with busy := true, curOp := .recallE2, pending := Proc.pollUntilOne {} ++ [.prim .busyOff] }

/-- A state with one stimulus of the host. -/
def told (s : State) (x : Stimulus) : State := { s with inbox := [x] }

/-- A state whose next samples are these. -/
def answered (s : State) (answers : List Bool) : State := { s with line := answers }

theorem midSlot_inv : Inv midSlot :=
  ⟨by decide, by decide, by decide, by decide, by decide,
    fun _ => ⟨true, true, by decide, fun _ => rfl, fun _ => ⟨by decide, by decide, by decide, by decide⟩⟩, nofun⟩

theorem polling_inv : Inv polling :=
  ⟨by decide, by decide, by decide, by decide, by decide,
    fun _ => ⟨false, true, by decide, nofun, fun _ => ⟨by decide, by decide, by decide, by decide⟩⟩, nofun⟩

/-- An idle state that is not the reset state: after step 3 of program P2 (10 bits, parasite power). -/
def idleTenBits : State :=
  { State.reset with
    sp := #v[0x50#8, 0x05#8, 0x19#8, 0xF6#8, 0x3F#8, 0xFF#8, 0x0C#8, 0x10#8, 0x00#8]
    tempRaw := 1360#16
    th := 25#8
    tl := 0xF6#8
    res := 10
    parasite := true }

theorem idleTenBits_inv : Inv idleTenBits :=
  ⟨by decide, by decide, by decide, by decide, by decide, nofun,
    fun _ => ⟨rfl, rfl, rfl, by decide, by decide, by decide, by decide⟩⟩

theorem witness_HardwareResetForcesResetValues : (told midSlot .hwReset).inbox = .hwReset :: [] := rfl

theorem witness_StepKeepsInvariant :
    (Inv midSlot ∧ ∃ t, step midSlot = .next t) ∧ (Inv polling ∧ ∃ t, step polling = .next t) ∧
    (Inv idleTenBits ∧ ∃ t, step (told idleTenBits (.start [0x44#8])) = .next t) :=
  ⟨⟨midSlot_inv, _, rfl⟩, ⟨polling_inv, _, rfl⟩, ⟨idleTenBits_inv, _, rfl⟩⟩

theorem witness_StepKeepsHostInterruptEnable :
    Inv midSlot ∧ (∃ t, step midSlot = .next t) ∧ (∀ b rest, midSlot.inbox ≠ .setIrqEn b :: rest) ∧
    (∀ rest, midSlot.inbox ≠ .hwReset :: rest) := ⟨midSlot_inv, ⟨_, rfl⟩, nofun, nofun⟩

theorem witness_StepNeverChangesParameters : ∃ t, step (told midSlot .tick) = .next t := ⟨_, rfl⟩

/-- The step takes the sample that stands next. -/
theorem witness_SamplesOnlyWhileReleased :
    Inv midSlot ∧ (∃ rest, midSlot.pending = .prim (.lineSample .b) :: rest) ∧ ∃ t, step midSlot = .next t :=
  ⟨midSlot_inv, ⟨_, rfl⟩, _, rfl⟩

theorem witness_StepRunsDecodedOperation :
    (told State.reset (.start [0xCC#8])).inbox = .start [0xCC#8] :: [] ∧ decode [0xCC#8] = .ok .skipRom := ⟨rfl, rfl⟩

theorem witness_StepWithoutStimulus : idleTenBits.inbox = [] ∧ idleTenBits.busy = false ∧ Inv idleTenBits :=
  ⟨rfl, rfl, idleTenBits_inv⟩

/-- The neighbours of the codes and the ends of the range. -/
theorem witness_ReservedCodeRefused :
    ∀ c ∈ [0x00#8, 0x07#8, 0x32#8, 0xF0#8, 0xFF#8],
      c ∉ [0x33#8, 0x55#8, 0xCC#8, 0xEC#8, 0x44#8, 0x4E#8, 0xBE#8, 0x48#8, 0xB8#8, 0xB4#8, 0x01#8, 0x02#8, 0x03#8,
        0x04#8, 0x05#8, 0x06#8] ∧ (told State.reset (.start (c :: []))).inbox = .start (c :: []) :: [] := by
  intro c hc
  refine ⟨?_, rfl⟩
  revert c
  decide

theorem witness_BusyStartRefused :
    (told polling (.accept [0xCC#8])).busy = true ∧ decode [0xCC#8] = .ok .skipRom ∧
    (told polling (.accept [0xCC#8])).inbox = .accept [0xCC#8] :: [] := ⟨rfl, rfl, rfl⟩

theorem witness_ByteCountRefused :
    State.reset.busy = false ∧ State.reset.cfg.wf = true ∧ ((0 : Int) < 1 ∨ 4 < (0 : Int)) ∧ ((5 : Int) < 1 ∨ 4 < (5 : Int)) := by decide

/-- Each register, at both ends of the two buffers. -/
def hostRegs : List HostReg :=
  [.rom 0, .rom 7, .sp 0, .sp 8, .tempRaw, .th, .tl, .res, .detected, .parasite, .alarm, .busy, .capCrc, .capSearch]

/-- Each register read while idle, while an operation in progress leaves it alone, and, where some operation writes it,
while that operation runs. -/
theorem witness_HostReadReturnsRegister :
    (∀ r ∈ hostRegs, (told State.reset (.read r)).inbox = .read r :: []) ∧ State.reset.busy = false ∧
    midSlot.busy = true ∧ midSlot.curOp = .readbit ∧ polling.busy = true ∧
    (∀ i ∈ [Instr.init, .readPowerSupply, .alarmSearch], ({ polling with curOp := i } : State).curOp = i) ∧
    (Instr.init ≠ .write0 ∧ Instr.init ≠ .write1 ∧ Instr.init ≠ .readbit ∧ ∀ v n, Instr.init ≠ .writeBytes v n) :=
  ⟨fun _ _ => rfl, rfl, rfl, rfl, rfl, fun _ _ => rfl, nofun, nofun, nofun, nofun⟩

/-- One read of each register, all at values of their own (10_state.md R29). -/
theorem test_host_reads :
    let s : State := { State.reset with
      rom := #v[1#8, 2#8, 3#8, 4#8, 5#8, 6#8, 7#8, 8#8], sp := #v[11#8, 12#8, 13#8, 14#8, 15#8, 16#8, 17#8, 18#8, 19#8],
      tempRaw := 400#16, th := 75#8, tl := 70#8, res := 10, detected := true, parasite := false, alarm := true }
    hostRegs.map (fun r => match step (told s (.read r)) with
      | .next t => some t.reply
      | .fault _ => none
      | .refused _ => none) =
      [.byte 1#8, .byte 8#8, .byte 11#8, .byte 19#8, .word 400#16, .byte 75#8, .byte 70#8, .number 10, .flag true,
        .flag false, .flag true, .flag false, .flag false, .flag false].map (fun v => some (.value v)) := by
  decide +kernel

/-- While an operation is in progress `BUSY` and the capability constants read as they stand. -/
theorem test_host_reads_while_busy :
    [HostReg.busy, .capCrc, .capSearch].map (fun r => goes (step (told polling (.read r)))
      (fun t => t.reply == .value (.flag (r == .busy)))) = [true, true, true] := by decide +kernel

theorem witness_HostInterruptWrite :
    ((told State.reset (.setIrqEn false)).inbox = .setIrqEn false :: [] ∧ State.reset.busy = false) ∧
    ((told polling (.setIrqEn true)).inbox = .setIrqEn true :: [] ∧ polling.busy = true) :=
  ⟨⟨rfl, rfl⟩, ⟨rfl, rfl⟩⟩

/-- Both ends of the operand field. -/
theorem witness_DecodeOfEncode :
    (Instr.writeScratchpad 0x80#8 0x7F#8 (-2147483648)).encodable = true ∧
    (Instr.writeBytes 0xFFFFFFFF#32 2147483647).encodable = true ∧ Instr.init.encodable = true := by decide

theorem witness_EncodeOfDecode : decode [0x02#8, 0x77#8] = .ok .write0 := rfl

/-- Each clause: a state before each of the eight primitives. -/
theorem witness_PrimitiveEffects :
    ∀ p ∈ [Prim.lineOutLow, .lineOutHigh, .lineRelease, .lineSample .s2, .waitUs 3, .waitMs 800, .maskEnter, .maskExit],
      ({ State.reset with busy := true, pending := .prim p :: [.prim .busyOff] } : State).pending =
        .prim p :: [.prim .busyOff] := fun _ _ => rfl

theorem witness_PrimitiveRunEqualsOperation : decode [0x06#8] = .ok .init := rfl

theorem witness_ResetRuns : State.reset.busy = false := rfl

theorem witness_WriteSlotsRun : State.reset.busy = false := rfl

theorem witness_ReadbitRuns : State.reset.busy = false := rfl

/-- The extreme pulses of S1 (95_test_vectors.md), and no device. -/
theorem witness_PresencePulseDetected :
    let s := answered State.reset [false, true]
    let silent := answered State.reset [true, true]
    s.busy = false ∧ s.cfg.wf = true ∧
    (∀ p ∈ [(15, 60), (60, 240), (60, 60), (15, 240)], 15 ≤ p.1 ∧ p.1 ≤ 60 ∧ 60 ≤ p.2 ∧ p.2 ≤ 240 ∧
      s.answer 0 = !(decide (p.1 ≤ s.cfg.tPds) && decide (s.cfg.tPds < p.1 + p.2)) ∧
      s.answer 1 = !(decide (p.1 ≤ s.cfg.tPds + s.cfg.tRsthRest) && decide (s.cfg.tPds + s.cfg.tRsthRest < p.1 + p.2))) ∧
    silent.busy = false ∧ silent.answer 0 = true ∧ silent.answer 1 = true := by decide

theorem witness_WriteBytesRuns : State.reset.busy = false ∧ State.reset.cfg.wf = true ∧ 1 ≤ 1 ∧ 1 ≤ 4 ∧ 4 ≤ 4 := by decide

theorem witness_FramerLowTimes : State.reset.busy = false ∧ State.reset.cfg.wf = true ∧ 1 ≤ 1 ∧ 1 ≤ 4 ∧ 4 ≤ 4 := by decide

theorem witness_ReadRomRuns : State.reset.busy = false ∧ State.reset.cfg.wf = true := by decide

theorem witness_MatchRomRuns : State.reset.busy = false := rfl

theorem witness_SkipRomRuns : State.reset.busy = false := rfl

theorem witness_AlarmSearchRuns : State.reset.busy = false := rfl

theorem witness_MatchRomSendsTheBitsRead :
    State.reset.busy = false ∧ State.reset.cfg.wf = true ∧ ∃ t, exec .readRom State.reset = .next t :=
  ⟨rfl, by decide, _, rfl⟩

theorem witness_ConvertTParasiteRuns : idleTenBits.busy = false ∧ idleTenBits.parasite = true := ⟨rfl, rfl⟩

/-- Each of the four resolutions. -/
theorem witness_ConversionWaitTable :
    ∀ r ∈ [12, 11, 10, 9], ∃ s : State, s.busy = false ∧ s.parasite = true ∧ s.cfg.tConvBaseMs = 800 ∧ s.res = r :=
  fun r _ => ⟨{ idleTenBits with res := r }, rfl, rfl, rfl, rfl⟩

/-- The first poll answers 1 (`k = 0`), and the third does (`k = 2`), for either operation. -/
theorem witness_PollingEndsAtTheFirstOne :
    let s0 := answered State.reset [false, true, true]
    let s2 := answered State.reset [false, true, false, false, true]
    (s0.busy = false ∧ s0.parasite = false ∧ s0.inbox = [] ∧ s0.answer (2 + 0) = true) ∧
    (s2.busy = false ∧ s2.parasite = false ∧ s2.inbox = [] ∧ (∀ j, j < 2 → s2.answer (2 + j) = false) ∧
      s2.answer (2 + 2) = true) := by decide

theorem witness_PollingOperationsComplete :
    let s := answered State.reset [true, true, true]
    s.busy = false ∧ s.answer 2 = true ∧ s.parasite = false := by decide

theorem witness_PollingNeverEnds :
    let s := answered State.reset [false, false, false, false, false]
    s.busy = false ∧ s.parasite = false ∧ s.inbox = [] ∧ ∀ j, j ≤ 2 → s.answer (2 + j) = false := by decide

theorem witness_WriteScratchpadRuns : State.reset.busy = false ∧ State.reset.cfg.wf = true := by decide

theorem witness_ScratchpadPayloadOnTheLine : State.reset.busy = false := rfl

/-- Each clause, the last at both of its edges. -/
theorem witness_ResolutionClamp :
    ({} : Params).wf = true ∧ ({} : Params).cfgReserved = 0x1F#8 ∧ ((8 : Int) < 9 ∨ 12 < (8 : Int)) ∧ ((13 : Int) < 9 ∨ 12 < (13 : Int)) := by
  decide

theorem witness_ConfigByteFields : ({} : Params).wf = true := by decide

theorem witness_ReadScratchpadRuns : State.reset.busy = false ∧ State.reset.cfg.wf = true := by decide

theorem witness_DecodedValuesAreSigned : State.reset.busy = false ∧ State.reset.cfg.wf = true := by decide

/-- Two states that hold different data and get the same answers. -/
theorem witness_ReadsDependOnAnswersOnly :
    let s := answered State.reset (List.replicate 74 true)
    let s' := answered idleTenBits (List.replicate 74 true)
    s.busy = false ∧ s'.busy = false ∧ s.cfg = s'.cfg ∧ s.cfg.wf = true ∧ ∀ k, k < 74 → s.answer k = s'.answer k := by decide +kernel

/-- `WRITE_SCRATCHPAD(25, -10, 10)` read back, and a clamped resolution. -/
theorem witness_ScratchpadRoundTrip :
    ∀ res ∈ [(10 : Int), 13],
      let s := answered State.reset (List.replicate 18 false ++
        (List.range 24).map (scratchpadPayload {} (u8 25) (u8 (-10)) res).getLsbD)
      s.busy = false ∧ s.cfg.wf = true ∧
      ∀ k, k < 24 → s.answer (18 + k) = (scratchpadPayload s.cfg (u8 25) (u8 (-10)) res).getLsbD k := by decide +kernel

theorem witness_CopyScratchpadRuns : State.reset.busy = false ∧ idleTenBits.busy = false := ⟨rfl, rfl⟩

theorem witness_ReadPowerSupplyRuns : State.reset.busy = false := rfl

theorem witness_InitRuns : State.reset.busy = false ∧ State.reset.cfg.wf = true := by decide

theorem witness_InitWithNoDevice :
    let s := answered State.reset (List.replicate 143 true)
    s.busy = false ∧ s.cfg.wf = true ∧ ∀ k, k < 143 → s.answer k = true := by decide +kernel

theorem witness_OnlyTheNamedOperationsWrite : ∃ t, exec .write1 idleTenBits = .next t := ⟨_, rfl⟩

theorem witness_DetectedIsNeverRead : ∃ t, exec .matchRom idleTenBits = .next t := ⟨_, rfl⟩

theorem witness_NominalDurations :
    (State.reset.busy = false ∧ State.reset.cfg = {}) ∧
    (idleTenBits.busy = false ∧ idleTenBits.cfg = {} ∧ idleTenBits.parasite = true) := ⟨⟨rfl, rfl⟩, ⟨rfl, rfl, rfl⟩⟩

/-- Either kind of start, in the middle of a READBIT. -/
theorem witness_RefusedStartLeavesTheOperation :
    midSlot.busy = true ∧ ∀ x ∈ [Stimulus.start [0x04#8], .accept [0x04#8]],
      x = .start [0x04#8] ∨ x = .accept [0x04#8] := by decide

end Sys2Proof.Tests
end

/-! ### The presence pulse (40_timeslot_primitives.md R139) -/

namespace Sys2Proof

/-- When the two samples of `Reset()` are taken, in microseconds after the release (00_scope.md R5,
40_timeslot_primitives.md R133). -/
theorem Params.presenceSamples_of_wf {c : Params} (h : c.wf = true) :
    60 < c.tPds ∧ c.tPds < 75 ∧ 480 ≤ c.tPds + c.tRsthRest := by
  simp only [Params.wf, Bool.and_eq_true, decide_eq_true_eq] at h
  tauto

end Sys2Proof

namespace Sys2Proof.Machine

/-- The meaning of RESET while `BUSY = 0`, as a whole state. -/
theorem exec_reset_idle (s : State) (hb : s.busy = false) :
    exec .reset s = .next { s with
      dir := .out, lvl := true, irqSaved := s.irqEn, latchS1 := s.answer 0, latchS2 := s.answer 1,
      detected := presence (s.answer 0) (s.answer 1), line := s.line.drop 2, draws := s.draws + 2,
      trace := s.trace ++ Trace.rst s.cfg (s.answer 0) (s.answer 1), busy := false, pending := [],
      curOp := Config.idleCurOp s.freeUsed, bitIdx := (Config.idleBitIdx s.freeUsed).val,
      shift := Config.idleShift s.freeUsed, freeUsed := s.freeUsed + 1, reply := .accepted } := by
  rw [exec_idle .reset s hb rfl, bodyOf, bodyReset, runSteps_reset, runSteps_busyOff]
  rfl

/-- `DETECTED` after RESET is the presence test of the two samples (40_timeslot_primitives.md R131, R137). -/
theorem exec_reset_detected (s : State) (hb : s.busy = false) :
    ∃ t, exec .reset s = .next t ∧ t.detected = presence (s.answer 0) (s.answer 1) :=
  ⟨_, exec_reset_idle s hb, rfl⟩

/-- Settles O23: a pulse that starts by 60 µs and ends no earlier than 15 + 60 = 75 µs covers the first sample, and its
latest end, 60 + 240 = 300 µs, lies before the second. -/
theorem presencePulseDetected : Obligations.PresencePulseDetected := by
  intro s start hold hb hwf _ hstart60 hhold60 hhold240 pulledLow
  obtain ⟨hpds60, hpds75, hrest⟩ := Params.presenceSamples_of_wf hwf
  obtain ⟨t, ht, hdet⟩ := exec_reset_detected s hb
  refine ⟨fun h0 h1 => ⟨t, ht, ?_⟩, fun h0 h1 => ⟨t, ht, ?_⟩⟩
  · have hcovered : pulledLow s.cfg.tPds = true := by
      simp only [pulledLow, Bool.and_eq_true, decide_eq_true_eq]
      omega
    have hended : pulledLow (s.cfg.tPds + s.cfg.tRsthRest) = false := by
      simp only [pulledLow, Bool.and_eq_false_iff, decide_eq_false_iff_not]
      omega
    rw [hdet, h0, h1, hcovered, hended]
    rfl
  · rw [hdet, h0, h1]
    rfl

end Sys2Proof.Machine

/-! ### The byte framer (41_byte_framer.md R160, R161) -/

namespace Sys2Proof.Machine

/-- The meaning of WRITE_BYTES while `BUSY = 0`, as a whole state. -/
theorem exec_writeBytes_idle (v : BitVec 32) (n : Nat) (s : State) (hb : s.busy = false) (hn : 1 ≤ n)
    (hl : (Instr.writeBytes v n).legal s.cfg = true) :
    exec (.writeBytes v n) s = .next { s with
      dir := .out, lvl := true, irqSaved := s.irqEn, trace := s.trace ++ Trace.bytes s.cfg v n, busy := false,
      pending := [], curOp := Config.idleCurOp s.freeUsed, bitIdx := (Config.idleBitIdx s.freeUsed).val,
      shift := Config.idleShift s.freeUsed, freeUsed := s.freeUsed + 1, reply := .accepted } := by
  rw [exec_idle _ s hb hl, bodyOf, bodyWriteBytes, Int.toNat_natCast, runSteps_writeBytes v n hn, runSteps_busyOff]

/-- Settles O24: `n` of 1..4 is a legal byte count, and the run of the framer's loop is `Trace.bytes`, one slot for each
bit of `v` from bit 0 on. -/
theorem writeBytesRuns : Obligations.WriteBytesRuns := by
  intro v n s hb hwf h1 h4
  have hlegal : (Instr.writeBytes v n).legal s.cfg = true :=
    (legal_writeBytes (Params.framerMaxBytes_of_wf hwf) v n).2 (by omega)
  refine ⟨_, exec_writeBytes_idle v n s hb h1 hlegal, rfl, rfl, ?_⟩
  constructor <;> rfl

end Sys2Proof.Machine

/-! ### The conversion wait (43_function_commands.md R201, R202) -/

namespace Sys2Proof.Machine

/-- The meaning of CONVERT_T on parasite power while `BUSY = 0`, as a whole state. -/
theorem exec_convertT_parasite (s : State) (hb : s.busy = false) (hp : s.parasite = true) :
    exec .convertT s = .next { s with
      dir := .out, lvl := true, irqSaved := s.irqEn, latchS1 := s.answer 0, latchS2 := s.answer 1,
      detected := presence (s.answer 0) (s.answer 1), line := s.line.drop 2, draws := s.draws + 2,
      trace := s.trace ++ Trace.prologue s.cfg (s.answer 0) (s.answer 1) 0x44#8 ++
        [.waitMs (conversionWaitMs s.cfg s.res)],
      busy := false, pending := [], curOp := Config.idleCurOp s.freeUsed,
      bitIdx := (Config.idleBitIdx s.freeUsed).val, shift := Config.idleShift s.freeUsed,
      freeUsed := s.freeUsed + 1, reply := .accepted } := by
  rw [exec_idle .convertT s hb rfl, bodyOf, bodyConvertT, if_pos hp, List.append_assoc,
    runSteps_fnPrologue, runSteps_steps, runSteps_busyOff] <;> rfl

/-- The milliseconds of a function command that ends in one timed wait are that wait's: its prologue waits for none. -/
theorem Trace.totalMs_prologue_waitMs (c : Params) (s1 s2 : Bool) (op : Byte) (n : Nat) :
    Trace.totalMs (Trace.prologue c s1 s2 op ++ [.waitMs n]) = n := by
  rw [Trace.totalMs_append, Trace.totalMs_prologue, Nat.zero_add]
  rfl

/-- The events CONVERT_T adds on parasite power last `conversionWaitMs` milliseconds. -/
theorem exec_convertT_parasite_totalMs (s : State) (hb : s.busy = false) (hp : s.parasite = true) :
    ∃ t evs, exec .convertT s = .next t ∧ t.trace = s.trace ++ evs ∧
      Trace.totalMs evs = conversionWaitMs s.cfg s.res :=
  ⟨_, _, exec_convertT_parasite s hb hp, List.append_assoc .., Trace.totalMs_prologue_waitMs ..⟩

/-- Settles O32: the milliseconds of the trace are `conversionWaitMs`, evaluated for the base 800 at each resolution. -/
theorem conversionWaitTable : Obligations.ConversionWaitTable := by
  intro s hb hp hbase
  obtain ⟨t, evs, ht, htrace, hms⟩ := exec_convertT_parasite_totalMs s hb hp
  have hwait : Trace.totalMs evs = 800 / 2 ^ (12 - s.res) := by rw [hms, conversionWaitMs, hbase]
  refine ⟨t, evs, ht, htrace, ?_, ?_, ?_, ?_⟩ <;> intro hres <;> simp [hwait, hres]

end Sys2Proof.Machine

/-! ### The scratchpad decode (44_decode_power_init.md R240 to R243) -/

namespace Sys2Proof.Machine

/-- A byte register read as an integer (44_decode_power_init.md R242). -/
theorem toInt_byte (b : Byte) :
    b.toInt = if b.toNat < 128 then (b.toNat : Int) else (b.toNat : Int) - 256 := by
  rw [BitVec.toInt_eq_toNat_cond]
  split <;> split <;> omega

/-- The temperature word as a natural number, `SP[1]` the high byte (30_encoding.md R104). -/
theorem toNat_temperatureWord (sp : Vector Byte 9) :
    (temperatureWord sp).toNat = sp[1].toNat * 256 + sp[0].toNat := by
  rw [temperatureWord, BitVec.toNat_append, ← Nat.shiftLeft_add_eq_or_of_lt sp[0].isLt, Nat.shiftLeft_eq]

/-- The temperature word read as an integer (44_decode_power_init.md R243). -/
theorem toInt_temperatureWord (sp : Vector Byte 9) :
    (temperatureWord sp).toInt =
      if sp[1].toNat * 256 + sp[0].toNat < 32768 then ((sp[1].toNat * 256 + sp[0].toNat : Nat) : Int)
      else ((sp[1].toNat * 256 + sp[0].toNat : Nat) : Int) - 65536 := by
  rw [BitVec.toInt_eq_toNat_cond, toNat_temperatureWord]
  split <;> split <;> omega

/-- The signed reading of a byte undoes `u8` on -128..127 (00_scope.md R6, 44_decode_power_init.md R242). -/
theorem toInt_u8 {x : Int} (hmin : -128 ≤ x) (hmax : x ≤ 127) : (u8 x).toInt = x :=
  BitVec.toInt_ofInt_eq_self (by decide) hmin (Int.lt_add_one_of_le hmax)

/-- The meaning of READ_SCRATCHPAD while `BUSY = 0`, as a whole state. -/
theorem exec_readScratchpad_idle (s : State) (hb : s.busy = false) (hn : s.cfg.spBits = 72) :
    exec .readScratchpad s = .next { State.decodeScratchpad { s with
        dir := .out, lvl := true, irqSaved := s.irqEn, latchS1 := s.answer 0, latchS2 := s.answer 1,
        latchB := s.answer 73, detected := presence (s.answer 0) (s.answer 1),
        sp := gathered (Vector.replicate 9 0x00#8) (fun k => s.answer (2 + k)) 72,
        line := s.line.drop 74, draws := s.draws + 74,
        trace := s.trace ++ Trace.prologue s.cfg (s.answer 0) (s.answer 1) 0xBE#8 ++
          Trace.bits s.cfg 72 fun k => s.answer (2 + k) } with
      busy := false, pending := [], curOp := Config.idleCurOp s.freeUsed,
      bitIdx := (Config.idleBitIdx s.freeUsed).val, shift := Config.idleShift s.freeUsed,
      freeUsed := s.freeUsed + 1, reply := .accepted } := by
  rw [exec_idle .readScratchpad s hb rfl, bodyOf, bodyReadScratchpad, runSteps_readScratchpad s.cfg hn,
    runSteps_busyOff] <;> rfl

/-- After READ_SCRATCHPAD the decoded thresholds and the temperature are those of the buffer it leaves
(44_decode_power_init.md R240, R242, R243). -/
theorem exec_readScratchpad_decoded (s : State) (hb : s.busy = false) (hn : s.cfg.spBits = 72) :
    ∃ t, exec .readScratchpad s = .next t ∧ t.th = t.sp[2] ∧ t.tl = t.sp[3] ∧ t.tempRaw = temperatureWord t.sp :=
  ⟨_, exec_readScratchpad_idle s hb hn, rfl, rfl, rfl⟩

/-- Settles O41: the decoded registers hold the patterns of `SP[0..3]`, whose signed readings are `toInt_byte`,
`toInt_temperatureWord` and, for a byte that is `u8(x)`, `toInt_u8`. -/
theorem decodedValuesAreSigned : Obligations.DecodedValuesAreSigned := by
  intro s hb hwf
  obtain ⟨t, ht, hth, htl, htemp⟩ := exec_readScratchpad_decoded s hb (Params.spBits_of_wf hwf)
  refine ⟨t, ht, ?_, ?_, ?_, fun x hmin hmax => ⟨fun h2 => ?_, fun h3 => ?_⟩, by decide⟩
  · rw [hth, toInt_byte]
  · rw [htl, toInt_byte]
  · rw [htemp, toInt_temperatureWord]
  · rw [hth, h2, toInt_u8 hmin hmax]
  · rw [htl, h3, toInt_u8 hmin hmax]

end Sys2Proof.Machine

/-! ### What one step of the machine can do (10_state.md R27, R29; 00_scope.md R9) -/

namespace Sys2Proof.Machine

/-- A property of states that survives everything the block does by itself and every stimulus, a write of `IRQ_EN` and a
hardware reset apart. -/
structure KeptByBlock (P : State → Prop) : Prop where
  inbox : ∀ s rest, P s → P { s with inbox := rest }
  tick : ∀ s, P s → P (tick s)
  refuse : ∀ s why, P s → P (s.refuse why)
  accept : ∀ i s, s.busy = false → i.legal s.cfg = true → P s → P (s.accept i (bodyOf i s))
  hostRead : ∀ r s, P s → P (hostRead r s)

/-- A start either is refused, or is legal, comes to an idle block and is accepted. -/
theorem refusal_cases (i : Instr) (s : State) :
    (∃ why, refusal i s = some why) ∨ (refusal i s = none ∧ s.busy = false ∧ i.legal s.cfg = true) := by
  cases hb : s.busy <;> cases hl : i.legal s.cfg <;> simp [refusal, hb, hl]

/-- `exec` answers the refusal, or the operation run from its acceptance (60_exceptions.md R260). -/
theorem exec_cases (i : Instr) (s : State) :
    (∃ why, exec i s = .next (s.refuse why)) ∨
      (s.busy = false ∧ i.legal s.cfg = true ∧ exec i s = .next (advance (s.accept i (bodyOf i s)))) := by
  rw [exec_eq_startOp]
  obtain ⟨why, h⟩ | ⟨h, hb, hl⟩ := refusal_cases i s
  · exact .inl ⟨why, by rw [startOp, h]⟩
  · exact .inr ⟨hb, hl, by rw [startOp, h]⟩

/-- The same for an operation that is only accepted. -/
theorem acceptOp_cases (i : Instr) (s : State) :
    (∃ why, acceptOp i (bodyOf i s) s = s.refuse why) ∨
      (s.busy = false ∧ i.legal s.cfg = true ∧ acceptOp i (bodyOf i s) s = s.accept i (bodyOf i s)) := by
  obtain ⟨why, h⟩ | ⟨h, hb, hl⟩ := refusal_cases i s
  · exact .inl ⟨why, by rw [acceptOp, h]⟩
  · exact .inr ⟨hb, hl, by rw [acceptOp, h]⟩

/-- A step that serves a stimulus handles it in the state without it. -/
theorem step_of_inbox_cons {s : State} {x : Stimulus} {rest : List Stimulus} (h : s.inbox = x :: rest) :
    step s = handle x { s with inbox := rest } := by
  rw [step, serve, h]

section
variable {P : State → Prop}

theorem KeptByBlock.exec (h : KeptByBlock P) {i : Instr} {s t : State} (hs : P s) (he : exec i s = .next t) : P t := by
  obtain ⟨why, hr⟩ | ⟨hb, hl, ha⟩ := exec_cases i s
  · cases hr.symm.trans he
    exact h.refuse s why hs
  · cases ha.symm.trans he
    exact advance_keeps P h.tick _ (h.accept i s hb hl hs)

theorem KeptByBlock.hostAccept (h : KeptByBlock P) (command : List Byte) {s : State} (hs : P s) :
    P (hostAccept command s) := by
  rw [Machine.hostAccept]
  split
  · obtain ⟨why, hr⟩ | ⟨hb, hl, ha⟩ := acceptOp_cases _ s
    · rw [hr]
      exact h.refuse s why hs
    · rw [ha]
      exact h.accept _ s hb hl hs
  · exact h.refuse s _ hs

theorem KeptByBlock.hostStart (h : KeptByBlock P) {command : List Byte} {s t : State} (hs : P s)
    (ht : hostStart command s = .next t) : P t := by
  rw [Machine.hostStart] at ht
  split at ht
  · exact h.exec hs ht
  · cases ht
    exact h.refuse s _ hs

/-- What the block keeps is kept by a step that serves anything but an `IRQ_EN` write or a hardware reset; for those two
the property is asked of the state they leave. -/
theorem KeptByBlock.step (h : KeptByBlock P) {s t : State} (hs : P s) (ht : step s = .next t)
    (hirq : ∀ b rest, s.inbox = .setIrqEn b :: rest → s.busy = false → P { s with irqEn := b, inbox := rest })
    (hreset : ∀ rest, s.inbox = .hwReset :: rest → P ({ s with inbox := rest } : State).hardwareReset) : P t := by
  cases hin : s.inbox with
  | nil =>
    cases (step_of_inbox_nil s hin).symm.trans ht
    exact advance_keeps P h.tick s hs
  | cons x rest =>
    rw [step_of_inbox_cons hin] at ht
    have hrest := h.inbox s rest hs
    cases x with
    | start command => exact h.hostStart hrest ht
    | accept command => cases ht; exact h.hostAccept command hrest
    | tick => cases ht; exact h.tick _ hrest
    | hwReset => cases ht; exact hreset rest hin
    | setIrqEn b =>
      rw [handle, hostSetIrqEn] at ht
      split at ht
      · cases ht
      · rename_i hb
        cases ht
        exact hirq b rest hin (Bool.eq_false_iff.2 hb)
    | read r => cases ht; exact h.hostRead r _ hrest

end

end Sys2Proof.Machine

/-! ### The invariant (10_state.md R31) -/

namespace Sys2Proof.Machine

/-- The parts of the invariant that do not depend on whether an operation is in progress: well-formed parameters and the
ranges of `RES` and `BIT_IDX`. -/
structure RangeInv (s : State) : Prop where
  wf : s.cfg.wf = true
  reserved : s.cfg.cfgReserved ≠ 0x00#8
  res_ge : 9 ≤ s.res
  res_le : s.res ≤ 12
  bitIdx : s.bitIdx < 72

theorem inv_iff (s : State) :
    Inv s ↔ RangeInv s ∧ (s.busy = true → BusyInv s) ∧ (s.busy = false → IdleInv s) :=
  ⟨fun ⟨hw, hr, h9, h12, hi, hb, hd⟩ => ⟨⟨hw, hr, h9, h12, hi⟩, hb, hd⟩,
    fun ⟨⟨hw, hr, h9, h12, hi⟩, hb, hd⟩ => ⟨hw, hr, h9, h12, hi, hb, hd⟩⟩

/-- A state in mid-operation meets the invariant by its ranges and the discipline of its pending steps. -/
theorem inv_of_busy {s : State} (hr : RangeInv s) (hb : s.busy = true) (h : BusyInv s) : Inv s :=
  (inv_iff s).2 ⟨hr, fun _ => h, fun hidle => absurd (hb.symm.trans hidle) (by decide)⟩

/-- An idle state meets the invariant by its ranges, the idle line and the match of the decoded registers. -/
theorem inv_of_idle {s : State} (hr : RangeInv s) (hb : s.busy = false) (h : IdleInv s) : Inv s :=
  (inv_iff s).2 ⟨hr, fun hbusy => absurd (hbusy.symm.trans hb) (by decide), fun _ => h⟩

/-- Nothing is pending in an idle state. -/
theorem Inv.pending_eq_nil {s : State} (h : Inv s) (hb : s.busy = false) : s.pending = [] := by
  obtain ⟨-, -, hidle⟩ := (inv_iff s).1 h
  obtain ⟨-, -, hp, -⟩ := hidle hb
  exact hp

/-- Something is pending only while an operation is in progress. -/
theorem Inv.busy_of_pending {s : State} (h : Inv s) {m : Micro} {rest : List Micro} (hp : s.pending = m :: rest) :
    s.busy = true := by
  cases hb : s.busy with
  | true => rfl
  | false => cases (h.pending_eq_nil hb).symm.trans hp

/-- The discipline of the pending steps of a state in mid-operation. -/
theorem Inv.busyInv {s : State} (h : Inv s) {m : Micro} {rest : List Micro} (hp : s.pending = m :: rest) :
    BusyInv s := by
  obtain ⟨-, hbusy, -⟩ := (inv_iff s).1 h
  exact hbusy (h.busy_of_pending hp)

/-- What a primitive leaves alone: the parameters and what is pending always, `BUSY` but for `BUSY <- 0`, `IRQ_EN` and
its saved copy but for the mask primitives. -/
structure PrimFrame (p : Prim) (s t : State) : Prop where
  cfg : t.cfg = s.cfg
  pending : t.pending = s.pending
  busy : p ≠ .busyOff → t.busy = s.busy
  irqEn : p ≠ .maskEnter → p ≠ .maskExit → t.irqEn = s.irqEn
  irqSaved : p ≠ .maskEnter → t.irqSaved = s.irqSaved

theorem perform_frame (p : Prim) (s : State) : PrimFrame p s (perform p s) := by
  cases p with
  | busyOff => exact ⟨rfl, rfl, fun h => absurd rfl h, fun _ _ => rfl, fun _ => rfl⟩
  | maskEnter => exact ⟨rfl, rfl, fun _ => rfl, fun h => absurd rfl h, fun h => absurd rfl h⟩
  | maskExit => exact ⟨rfl, rfl, fun _ => rfl, fun _ h => absurd rfl h, fun _ => rfl⟩
  | lineSample x => cases x <;> constructor <;> intros <;> rfl
  | clearBuf b => cases b <;> constructor <;> intros <;> rfl
  | accumulate b => cases b <;> (simp only [perform, State.accumulate]; split <;> constructor <;> intros <;> rfl)
  | _ => constructor <;> intros <;> rfl

/-- A primitive of an operation in progress keeps the invariant. -/
theorem perform_inv {s : State} {p : Prim} {rest : List Micro} (hp : s.pending = .prim p :: rest) (h : Inv s) :
    Inv (perform p { s with pending := rest }) := by
  have hbusy := h.busy_of_pending hp
  have hdisc := h.busyInv hp
  obtain ⟨hr, -, -⟩ := (inv_iff s).1 h
  obtain ⟨hcfg, h9, h12, hi⟩ :=
    perform_ranges hp hdisc (Params.resDefault_of_wf hr.wf) hr.res_ge hr.res_le hr.bitIdx
  have hranges : RangeInv (perform p { s with pending := rest }) :=
    ⟨by rw [hcfg]; exact hr.wf, by rw [hcfg]; exact hr.reserved, h9, h12, hi⟩
  by_cases hne : p = .busyOff
  · subst hne
    obtain ⟨masked, fresh, hset, -, hdec⟩ := hdisc
    rw [hp, settles_busyOff] at hset
    obtain ⟨rfl, hout, rfl⟩ := hset
    simp only [Shape.outside, Bool.and_eq_true, beq_iff_eq] at hout
    obtain ⟨⟨hdir, hlvl⟩, -⟩ := hout
    exact inv_of_idle hranges rfl ⟨hdir, hlvl, rfl, hdec rfl⟩
  · exact inv_of_busy hranges (((perform_frame p _).busy hne).trans hbusy) (perform_busyInv hp hne hdisc)

/-- The write slot a bit is routed to stands in the region its turn stands in. -/
theorem busyInv_routeSlot {s : State} {rest : List Micro} (hp : s.pending = .routeSlot :: rest) (h : BusyInv s)
    (b : Bool) :
    BusyInv { s with pending := Proc.steps (Proc.slotW s.cfg b) ++ rest } := by
  obtain ⟨masked, fresh, hset, hirq, hdec⟩ := h
  rw [hp, settles_cons (by simp)] at hset
  obtain ⟨sh', hsh, hset⟩ := hset
  simp only [Shape.micro, Option.ite_none_right_eq_some, Option.some.injEq, Bool.and_eq_true, beq_iff_eq] at hsh
  obtain ⟨⟨⟨hm, hd⟩, hl⟩, rfl⟩ := hsh
  refine ⟨masked, fresh, ?_, hirq, hdec⟩
  simp only [hm, hd, hl] at hset ⊢
  rwa [settles_append (micros_slotW s.cfg b fresh)]

/-- A poll's test stands outside every region, the line driven high, and what follows it settles. -/
theorem BusyInv.untilOne {s : State} {rest : List Micro} (hp : s.pending = .untilOne :: rest) (h : BusyInv s) :
    ∃ fresh, s.dir = .out ∧ s.lvl = true ∧ settles (Shape.rest fresh) rest = true ∧
      (fresh = true → DecodedMatches s) := by
  obtain ⟨masked, fresh, hset, -, hdec⟩ := h
  rw [hp, settles_cons (by simp)] at hset
  obtain ⟨sh', hsh, hset⟩ := hset
  simp only [Shape.micro, Option.ite_none_right_eq_some, Option.some.injEq, Shape.outside, Bool.and_eq_true,
    beq_iff_eq, Bool.not_eq_true'] at hsh
  obtain ⟨⟨⟨hd, hl⟩, hm⟩, rfl⟩ := hsh
  rw [hd, hl, hm] at hset
  exact ⟨fresh, hd, hl, hset, hdec⟩

/-- Steps that settle from outside every region are a discipline for a state whose line is driven high. -/
theorem busyInv_of_settles_rest {s : State} {fresh : Bool} (hd : s.dir = .out) (hl : s.lvl = true)
    (hset : settles (Shape.rest fresh) s.pending = true) (hdec : fresh = true → DecodedMatches s) : BusyInv s :=
  ⟨false, fresh, by rw [hd, hl]; exact hset, nofun, hdec⟩

/-- A sequencer step keeps the invariant. -/
theorem tick_inv (s : State) (h : Inv s) : Inv (tick s) := by
  obtain ⟨hr, -, -⟩ := (inv_iff s).1 h
  have hr' : ∀ ms, RangeInv { s with pending := ms } := fun _ => ⟨hr.wf, hr.reserved, hr.res_ge, hr.res_le, hr.bitIdx⟩
  cases hp : s.pending with
  | nil => rwa [tick, hp]
  | cons m rest =>
    have hbusy := h.busy_of_pending hp
    have hdisc := h.busyInv hp
    cases m with
    | prim p => simpa only [tick, hp] using perform_inv hp h
    | routeSlot =>
      simp only [tick, hp]
      exact inv_of_busy (hr' _) hbusy (busyInv_routeSlot hp hdisc _)
    | untilOne =>
      obtain ⟨fresh, hd, hl, hset, hdec⟩ := hdisc.untilOne hp
      simp only [tick, hp]
      split
      · exact inv_of_busy (hr' _) hbusy (busyInv_of_settles_rest hd hl hset hdec)
      · refine inv_of_busy (hr' _) hbusy (busyInv_of_settles_rest hd hl ?_ hdec)
        rwa [settles_append (micros_pollUntilOne s.cfg fresh)]

/-- The body of a legal operation, with `BUSY <- 0` after it, settles from between regions. -/
theorem settles_bodyOf {i : Instr} {s : State} (hwf : s.cfg.wf = true) (hl : i.legal s.cfg = true) :
    settles (Shape.rest true) (bodyOf i s ++ [.prim .busyOff]) = true := by
  rw [settles_append (micros_bodyOf i s hwf hl)]
  rfl

/-- Acceptance of a legal operation keeps the invariant. -/
theorem accept_inv {i : Instr} {s : State} (hb : s.busy = false) (hl : i.legal s.cfg = true) (h : Inv s) :
    Inv (s.accept i (bodyOf i s)) := by
  obtain ⟨hr, -, hidle⟩ := (inv_iff s).1 h
  obtain ⟨hdir, hlvl, -, hdec⟩ := hidle hb
  exact inv_of_busy ⟨hr.wf, hr.reserved, hr.res_ge, hr.res_le, hr.bitIdx⟩ rfl
    (busyInv_of_settles_rest hdir hlvl (settles_bodyOf hr.wf hl) fun _ => hdec)

/-- A host read keeps the invariant. -/
theorem hostRead_inv (r : HostReg) (s : State) (h : Inv s) : Inv (hostRead r s) := by
  rw [hostRead]
  split <;> exact h

/-- The block keeps the invariant. -/
theorem keptByBlock_inv : KeptByBlock Inv where
  inbox _ _ h := h
  tick := tick_inv
  refuse _ _ h := h
  accept _ _ hb hl h := accept_inv hb hl h
  hostRead := hostRead_inv

/-- The reset value of `SP[4]` decodes to 12 bits where it does not carry the reserved pattern (10_state.md R31 (d)). -/
theorem decodeRes_zero {c : Params} (hwf : c.wf = true) (hr : c.cfgReserved ≠ 0x00#8) : decodeRes c 0x00#8 = 12 := by
  rw [decodeRes_eq c (Params.resDefault_of_wf hwf), if_neg]
  exact fun h => hr h.symm

/-- A hardware reset restores the invariant, given the premise on the parameters. -/
theorem hardwareReset_inv {s : State} (hwf : s.cfg.wf = true) (hr : s.cfg.cfgReserved ≠ 0x00#8) : Inv s.hardwareReset :=
  inv_of_idle ⟨hwf, hr, (by decide : 9 ≤ 12), Nat.le_refl 12, (Config.idleBitIdx _).isLt⟩ rfl
    ⟨rfl, rfl, rfl, (by decide : 0#16 = temperatureWord (Vector.replicate 9 0x00#8)), rfl, rfl,
      (decodeRes_zero hwf hr).symm⟩

/-- A write of `IRQ_EN` while `BUSY = 0` keeps the invariant. -/
theorem inv_setIrqEn {s : State} (h : Inv s) (hb : s.busy = false) (b : Bool) (rest : List Stimulus) :
    Inv { s with irqEn := b, inbox := rest } := by
  obtain ⟨hr, -, hidle⟩ := (inv_iff s).1 h
  exact inv_of_idle ⟨hr.wf, hr.reserved, hr.res_ge, hr.res_le, hr.bitIdx⟩ hb (hidle hb)

/-- Settles O3: the block keeps the invariant tick by tick, and so do an `IRQ_EN` write and a hardware reset. -/
theorem stepKeepsInvariant : Obligations.StepKeepsInvariant := by
  intro s t h ht
  obtain ⟨hr, -, -⟩ := (inv_iff s).1 h
  exact keptByBlock_inv.step h ht (fun b rest _ hb => inv_setIrqEn h hb b rest)
    fun _ _ => hardwareReset_inv hr.wf hr.reserved

/-! ### The host's interrupt enable (60_exceptions.md R267, R268) -/

/-- Outside every region the host's interrupt enable is `IRQ_EN`, inside it is the saved copy. -/
theorem hostIrq_of_settles {s : State} {sh : Shape} (h : settles sh s.pending = true) :
    hostIrq s = if sh.masked then s.irqSaved else s.irqEn := by
  rw [hostIrq, inRegion_of_settles h]

/-- Steps that begin with a primitive stand in a region exactly if the steps after it do, the mask primitives apart. -/
theorem inRegion_cons_prim {p : Prim} (hin : p ≠ .maskEnter) (hout : p ≠ .maskExit) (rest : List Micro) :
    inRegion (.prim p :: rest) = inRegion rest := by
  cases p with
  | maskEnter => exact absurd rfl hin
  | maskExit => exact absurd rfl hout
  | _ => rfl

/-- A primitive of an operation in progress keeps the host's interrupt enable: `MaskEnter` saves it, `MaskExit` restores
it, the others touch neither copy. -/
theorem perform_hostIrq {s : State} {p : Prim} {rest : List Micro} (hp : s.pending = .prim p :: rest) (h : BusyInv s) :
    hostIrq (perform p { s with pending := rest }) = hostIrq s := by
  obtain ⟨masked, fresh, hset, -, -⟩ := h
  by_cases hin : p = .maskEnter
  · subst hin
    rw [hp, settles_cons (by simp)] at hset
    obtain ⟨sh', hsh, hset⟩ := hset
    simp only [Shape.micro, Shape.prim, Option.ite_none_right_eq_some, Option.some.injEq] at hsh
    obtain ⟨-, rfl⟩ := hsh
    rw [hostIrq_of_settles (s := perform .maskEnter { s with pending := rest }) hset, hostIrq, hp]
    rfl
  by_cases hout : p = .maskExit
  · subst hout
    rw [hp, settles_cons (by simp)] at hset
    obtain ⟨sh', hsh, hset⟩ := hset
    simp only [Shape.micro, Shape.prim, Option.ite_none_right_eq_some, Option.some.injEq] at hsh
    obtain ⟨-, rfl⟩ := hsh
    rw [hostIrq_of_settles (s := perform .maskExit { s with pending := rest }) hset, hostIrq, hp]
    rfl
  · have hframe := perform_frame p { s with pending := rest }
    rw [hostIrq, hostIrq, hframe.pending, hframe.irqEn hin hout, hframe.irqSaved hin, hp, inRegion_cons_prim hin hout]

/-- A write slot holds no mask primitive. -/
theorem inRegion_slotW (c : Params) (b : Bool) (rest : List Micro) :
    inRegion (Proc.steps (Proc.slotW c b) ++ rest) = inRegion rest := by
  cases b <;> rfl

/-- A sequencer step keeps the host's interrupt enable. -/
theorem tick_hostIrq {s : State} (h : Inv s) : hostIrq (tick s) = hostIrq s := by
  cases hp : s.pending with
  | nil => rw [tick, hp]
  | cons m rest =>
    have hdisc := h.busyInv hp
    cases m with
    | prim p => simpa only [tick, hp] using perform_hostIrq hp hdisc
    | routeSlot => simp only [tick, hp, hostIrq, inRegion_slotW, inRegion]
    | untilOne =>
      obtain ⟨fresh, -, -, hset, -⟩ := hdisc.untilOne hp
      have hrest : inRegion rest = false := inRegion_of_settles hset
      simp only [tick, hp]
      split
      · simp only [hostIrq, hp, inRegion]
      · simp only [hostIrq, hp, inRegion, hrest]
        rfl

/-- Acceptance keeps the host's interrupt enable: a body begins outside every region. -/
theorem accept_hostIrq {i : Instr} {s : State} (hb : s.busy = false) (hl : i.legal s.cfg = true) (h : Inv s) :
    hostIrq (s.accept i (bodyOf i s)) = hostIrq s := by
  obtain ⟨hr, -, -⟩ := (inv_iff s).1 h
  rw [hostIrq_of_settles (s := s.accept i (bodyOf i s)) (settles_bodyOf hr.wf hl), hostIrq, h.pending_eq_nil hb]
  rfl

/-- A host read keeps the host's interrupt enable. -/
theorem hostRead_hostIrq (r : HostReg) (s : State) : hostIrq (hostRead r s) = hostIrq s := by
  rw [hostRead]
  split <;> rfl

/-- The block keeps the host's interrupt enable in states that meet the invariant. -/
theorem keptByBlock_hostIrq (b : Bool) : KeptByBlock fun s => Inv s ∧ hostIrq s = b where
  inbox _ _ h := h
  tick s h := ⟨tick_inv s h.1, (tick_hostIrq h.1).trans h.2⟩
  refuse _ _ h := h
  accept _ _ hb hl h := ⟨accept_inv hb hl h.1, (accept_hostIrq hb hl h.1).trans h.2⟩
  hostRead r s h := ⟨hostRead_inv r s h.1, (hostRead_hostIrq r s).trans h.2⟩

/-- Settles O4: the block keeps the host's interrupt enable; the two stimuli that may change it are excluded. -/
theorem stepKeepsHostInterruptEnable : Obligations.StepKeepsHostInterruptEnable := by
  intro s t h ht hirq hreset
  have hkept := (keptByBlock_hostIrq (hostIrq s)).step ⟨h, rfl⟩ ht
    (fun b rest hin => absurd hin (hirq b rest)) fun rest hin => absurd hin (hreset rest)
  exact hkept.2

end Sys2Proof.Machine

/-! ### The host command word (30_encoding.md R106, R108) -/

namespace Sys2Proof

/-- An integer that fits its field is read back from the four bytes of it. -/
theorem intOfField_split {x : Int} (h : fitsField x = true) :
    intOfField ((BitVec.ofInt 32 x).extractLsb' 0 8) ((BitVec.ofInt 32 x).extractLsb' 8 8)
      ((BitVec.ofInt 32 x).extractLsb' 16 8) ((BitVec.ofInt 32 x).extractLsb' 24 8) = x := by
  rw [intOfField, joinBytes_split, toInt_ofInt_of_fits x h]

/-- The field of an integer that was read from four bytes is these bytes. -/
theorem fieldOfInt_intOfField (b0 b1 b2 b3 : Byte) : fieldOfInt (intOfField b0 b1 b2 b3) = [b0, b1, b2, b3] := by
  rw [fieldOfInt, intOfField, BitVec.ofInt_toInt, splitBytes_join]

/-- Settles O15: only WRITE_SCRATCHPAD and WRITE_BYTES have operands, whose fields are read back. -/
theorem decodeOfEncode : Obligations.DecodeOfEncode := by
  intro i rest henc
  cases i with
  | writeScratchpad th tl res =>
    exact congrArg (fun x => (.ok (.writeScratchpad th tl x) : Except DecodeError Instr)) (intOfField_split henc)
  | writeBytes v n =>
    exact congrArg₂ (fun v n => (.ok (.writeBytes v n) : Except DecodeError Instr)) (joinBytes_split v)
      (intOfField_split henc)
  | _ => rfl

/-- What WRITE_SCRATCHPAD's operand bytes say. -/
theorem decodeWriteScratchpad_eq_ok {c : Byte} {bytes : List Byte} {i : Instr}
    (h : decodeWriteScratchpad c bytes = .ok i) :
    i.encodable = true ∧ i.code = 0x4E#8 ∧ ∃ rest, bytes = i.operandBytes ++ rest := by
  unfold decodeWriteScratchpad at h
  split at h
  · rename_i th tl r0 r1 r2 r3 rest
    cases h
    exact ⟨fitsField_toInt _, rfl, rest, by simp only [Instr.operandBytes, fieldOfInt_intOfField]; rfl⟩
  · cases h

/-- What WRITE_BYTES' operand bytes say. -/
theorem decodeWriteBytes_eq_ok {c : Byte} {bytes : List Byte} {i : Instr} (h : decodeWriteBytes c bytes = .ok i) :
    i.encodable = true ∧ i.code = 0x05#8 ∧ ∃ rest, bytes = i.operandBytes ++ rest := by
  unfold decodeWriteBytes at h
  split at h
  · rename_i v0 v1 v2 v3 n0 n1 n2 n3 rest
    cases h
    refine ⟨fitsField_toInt _, rfl, rest, ?_⟩
    simp only [Instr.operandBytes, fieldOfInt_intOfField, splitBytes_join]
    rfl
  · cases h

/-- One rung of the decoder's chain of tests. -/
theorem ok_or_of_ite_ok {p : Prop} [Decidable p] {i j : Instr} {other : Except DecodeError Instr}
    (h : (if p then .ok j else other) = .ok i) : (p ∧ j = i) ∨ other = .ok i := by
  by_cases hp : p
  · rw [if_pos hp] at h
    cases h
    exact .inl ⟨hp, rfl⟩
  · rw [if_neg hp] at h
    exact .inr h

/-- A code byte and operand bytes that decode are those of what they decode to. -/
theorem decodeOp_eq_ok {c : Byte} {bytes : List Byte} {i : Instr} (h : decodeOp c bytes = .ok i) :
    i.encodable = true ∧ i.code = c ∧ ∃ rest, bytes = i.operandBytes ++ rest := by
  by_cases h4E : c = 0x4E#8
  · subst h4E
    exact decodeWriteScratchpad_eq_ok h
  by_cases h05 : c = 0x05#8
  · subst h05
    exact decodeWriteBytes_eq_ok h
  simp only [decodeOp, if_neg h4E, if_neg h05] at h
  repeat
    obtain ⟨rfl, rfl⟩ | h := ok_or_of_ite_ok h
    · exact ⟨rfl, rfl, bytes, rfl⟩
  cases h

/-- Settles O16: an operation's code and operand bytes are what was read, and an integer read from its field fits it. -/
theorem encodeOfDecode : Obligations.EncodeOfDecode := by
  intro command i h
  cases command with
  | nil => cases h
  | cons c bytes =>
    obtain ⟨henc, rfl, rest, rfl⟩ := decodeOp_eq_ok h
    exact ⟨henc, rest, rfl⟩

/-- Settles O17: each word is read by evaluating the decoder. -/
theorem commandWordsDecode : Obligations.CommandWordsDecode := by
  refine ⟨rfl, rfl, rfl, rfl, rfl, rfl, rfl, rfl, rfl, rfl, rfl, rfl, rfl, rfl, ?_, ?_⟩ <;> rfl

/-- A code byte other than the sixteen is reserved (30_encoding.md R108 (b)). -/
theorem decodeOp_reserved {c : Byte} (bytes : List Byte)
    (hc : c ∉ [0x33#8, 0x55#8, 0xCC#8, 0xEC#8, 0x44#8, 0x4E#8, 0xBE#8, 0x48#8, 0xB8#8, 0xB4#8, 0x01#8, 0x02#8, 0x03#8,
      0x04#8, 0x05#8, 0x06#8]) :
    decodeOp c bytes = .error (.reservedCode c) := by
  simp only [List.mem_cons, List.not_mem_nil, or_false, not_or] at hc
  simp only [decodeOp, hc, if_false]

end Sys2Proof

/-! ### Reset and the host port (70_reset_and_hazards.md R290, R300; 10_state.md R22, R29) -/

namespace Sys2Proof.Machine

/-- Settles O1: the values of R290 by evaluation; nothing is pending after it, so a step without a stimulus changes
nothing. -/
theorem hardwareResetForcesResetValues : Obligations.HardwareResetForcesResetValues := by
  have hvalues : ∀ (k : Fin 8), (Vector.replicate 8 0x00#8)[k] = 0x00#8 := by decide
  have hvalues9 : ∀ (k : Fin 9), (Vector.replicate 9 0x00#8)[k] = 0x00#8 := by decide
  refine ⟨⟨rfl, rfl, rfl, rfl, rfl, rfl, rfl, hvalues, hvalues9, rfl, rfl, rfl, rfl, rfl, rfl, rfl⟩, ?_⟩
  intro s rest hin
  refine ⟨_, step_of_inbox_cons hin,
    ⟨rfl, rfl, rfl, rfl, rfl, rfl, rfl, hvalues, hvalues9, rfl, rfl, rfl, rfl, rfl, rfl, rfl⟩, rfl, rfl, rfl, ?_⟩
  intro hnil
  exact step_of_inbox_nil _ hnil

/-- Settles O2: with `CFG_RESERVED = 0x1F` the reset value of `SP[4]` decodes to 12 bits. -/
theorem invariantHoldsAtReset : Obligations.InvariantHoldsAtReset :=
  inv_of_idle ⟨by decide, by decide, by decide, by decide, by decide⟩ rfl
    ⟨rfl, rfl, rfl, by decide, by decide, by decide, by decide⟩

/-- Every operation answers a next state (60_exceptions.md R260). -/
theorem exec_next (i : Instr) (s : State) : ∃ t, exec i s = .next t := by
  obtain ⟨why, h⟩ | ⟨-, -, h⟩ := exec_cases i s
  · exact ⟨_, h⟩
  · exact ⟨_, h⟩

/-- A host write of `IRQ_EN` while `BUSY = 0` sets it (10_state.md R22). -/
theorem hostSetIrqEn_idle (b : Bool) {s : State} (hb : s.busy = false) :
    hostSetIrqEn b s = .next { s with irqEn := b } := by
  simp only [hostSetIrqEn, hb, if_neg Bool.false_ne_true]

/-- A host write of `IRQ_EN` while `BUSY = 1` faults (U13). -/
theorem hostSetIrqEn_busy (b : Bool) {s : State} (hb : s.busy = true) :
    hostSetIrqEn b s = .fault .irqEnWrittenWhileBusy := by
  simp only [hostSetIrqEn, hb, if_true]

/-- Settles O7: stimulus by stimulus, only `hostSetIrqEn` can stop. -/
theorem stepStopsOnlyOnBusyInterruptWrite : Obligations.StepStopsOnlyOnBusyInterruptWrite := by
  refine ⟨exec_next, fun s => ?_⟩
  cases hin : s.inbox with
  | nil => exact .inl ⟨_, step_of_inbox_nil s hin⟩
  | cons x rest =>
    rw [step_of_inbox_cons hin]
    cases x with
    | start command =>
      refine .inl ?_
      rw [handle, hostStart]
      split
      · exact exec_next _ _
      · exact ⟨_, rfl⟩
    | setIrqEn b =>
      cases hb : s.busy with
      | true => exact .inr ⟨rfl, ⟨b, rest, rfl⟩, hostSetIrqEn_busy b rfl⟩
      | false => exact .inl ⟨_, hostSetIrqEn_idle b rfl⟩
    | accept command => exact .inl ⟨_, rfl⟩
    | tick => exact .inl ⟨_, rfl⟩
    | hwReset => exact .inl ⟨_, rfl⟩
    | read r => exact .inl ⟨_, rfl⟩

/-- Settles O8: the stimulus is served in the state without it, and the command word is decoded. -/
theorem stepRunsDecodedOperation : Obligations.StepRunsDecodedOperation := by
  intro s command rest i hin hdec
  rw [step_of_inbox_cons hin, handle, hostStart, hdec]

/-- With nothing pending the operation in progress has nothing to go on with. -/
theorem advance_of_pending_nil {s : State} (h : s.pending = []) : advance s = s := by
  rw [advance, h, runSteps, ← h]

/-- Settles O9: in an idle state that meets the invariant nothing is pending. -/
theorem stepWithoutStimulus : Obligations.StepWithoutStimulus := by
  intro s hin
  refine ⟨step_of_inbox_nil s hin, fun hb h => ?_⟩
  rw [step_of_inbox_nil s hin, advance_of_pending_nil (h.pending_eq_nil hb)]

/-- Settles O10: the command word decodes to the error that names the reserved code. -/
theorem reservedCodeRefused : Obligations.ReservedCodeRefused := by
  intro s c operands rest hc hin
  rw [step_of_inbox_cons hin, handle, hostStart, decode, decodeOp_reserved operands hc]
  rfl

/-- A start while `BUSY = 1` is refused (70_reset_and_hazards.md R300). -/
theorem exec_busy (i : Instr) {s : State} (hb : s.busy = true) : exec i s = .next (s.refuse .busy) := by
  rw [exec_eq_startOp, startOp_busy i _ s hb]
  rfl

/-- So is one that only accepts the operation. -/
theorem acceptOp_busy (i : Instr) (body : List Micro) {s : State} (hb : s.busy = true) :
    acceptOp i body s = s.refuse .busy := by
  simp only [acceptOp, refusal, hb, if_true]

/-- Settles O11: either kind of start comes to the refusal. -/
theorem busyStartRefused : Obligations.BusyStartRefused := by
  intro i s hb
  refine ⟨exec_busy i hb, fun command rest hdec hin => ?_⟩
  rw [step_of_inbox_cons hin, handle, hostAccept, hdec]
  exact congrArg Host.Outcome.next (acceptOp_busy i _ hb)

/-- Settles O12: a byte count outside 1..4 is not legal. -/
theorem byteCountRefused : Obligations.ByteCountRefused := by
  intro v n s hb hwf hn
  have hl : (Instr.writeBytes v n).legal s.cfg = false := by
    rw [← Bool.not_eq_true, legal_writeBytes (Params.framerMaxBytes_of_wf hwf)]
    omega
  exact (exec_eq_startOp _ s).trans (startOp_illegal _ _ s hb hl)

/-- A host read of a register that the operation in progress does not write. -/
theorem step_read_settled {s : State} {r : HostReg} {rest : List Stimulus} (hin : s.inbox = .read r :: rest)
    (h : (s.busy && writesReg s.curOp r) = false) :
    step s = .next { s with inbox := rest, reply := .value (readReg s r) } := by
  rw [step_of_inbox_cons hin, handle, hostRead, if_neg (by simp [h])]
  cases r <;> rfl

/-- A host read of a register that the operation in progress writes (U12). -/
theorem step_read_unsettled {s : State} {r : HostReg} {rest : List Stimulus} (hin : s.inbox = .read r :: rest)
    (h : (s.busy && writesReg s.curOp r) = true) :
    step s = .next { s with inbox := rest, reply := .value (freeReg s.freeUsed r), freeUsed := s.freeUsed + 1 } := by
  rw [step_of_inbox_cons hin, handle, hostRead, if_pos h]

/-- The operations that write `DETECTED` are all but the four raw ones (10_state.md R26). -/
theorem resetsBus_iff (i : Instr) :
    resetsBus i = true ↔ i ≠ .write0 ∧ i ≠ .write1 ∧ i ≠ .readbit ∧ ∀ v n, i ≠ .writeBytes v n := by
  cases i <;> simp [resetsBus]

/-- Settles O13: register by register, `writesReg` is the statement's list of operations. -/
theorem hostReadReturnsRegister : Obligations.HostReadReturnsRegister := by
  intro s r rest hin value writtenNow
  have hiff : writtenNow ↔ (s.busy && writesReg s.curOp r) = true := by
    rw [Bool.and_eq_true]
    refine and_congr_right fun _ => ?_
    cases r with
    | detected => exact (resetsBus_iff s.curOp).symm
    | _ => simp [writesReg, writesScratchpad]
  constructor
  · intro hnot
    rw [hiff, Bool.not_eq_true] at hnot
    rw [step_read_settled hin hnot]
    cases r <;> rfl
  · intro hw
    refine ⟨_, step_read_unsettled hin (hiff.1 hw), ?_⟩
    cases r <;> exact ⟨_, rfl⟩

/-- Settles O14: by the two cases of `BUSY`. -/
theorem hostInterruptWrite : Obligations.HostInterruptWrite := by
  intro s b rest hin
  rw [step_of_inbox_cons hin, handle]
  exact ⟨fun hb => hostSetIrqEn_idle b hb, fun hb => hostSetIrqEn_busy b hb⟩

/-- A sequencer step that is a primitive performs it. -/
theorem tick_prim {s : State} {p : Prim} {rest : List Micro} (hp : s.pending = .prim p :: rest) :
    tick s = perform p { s with pending := rest } := by
  simp only [tick, hp]

/-- A sample binds the next answer to its local variable and consumes it. -/
theorem tick_lineSample {s : State} {x : Latch} {rest : List Micro} (hp : s.pending = .prim (.lineSample x) :: rest) :
    ∃ t, tick s = t ∧ t.trace = s.trace ++ [.sample (s.answer 0)] ∧ (∀ k, t.answer k = s.answer (k + 1)) ∧
      t = { s with
        pending := rest, trace := t.trace, line := t.line, draws := t.draws,
        latchS1 := if x = .s1 then s.answer 0 else s.latchS1,
        latchS2 := if x = .s2 then s.answer 0 else s.latchS2,
        latchB := if x = .b then s.answer 0 else s.latchB } := by
  have hanswers : ∀ (t : State) (k : Nat), t.line = s.line.tail → t.draws = s.draws + 1 →
      t.answer k = s.answer (k + 1) := by
    intro t k hl hd
    rw [State.answer, hl, hd, answerAt_tail, Nat.add_comm, State.answer]
  rw [tick_prim hp]
  cases x <;> exact ⟨_, rfl, rfl, fun k => hanswers _ k rfl rfl, rfl⟩

/-- Settles O18: the tick performs the primitive, whose effect `perform` gives. -/
theorem primitiveEffects : Obligations.PrimitiveEffects := by
  intro s rest x n
  exact ⟨fun hp => tick_prim hp, fun hp => tick_prim hp, fun hp => tick_prim hp, fun hp => tick_lineSample hp,
    fun hp => tick_prim hp, fun hp => tick_prim hp, fun hp => tick_prim hp, fun hp => tick_prim hp⟩

end Sys2Proof.Machine

/-! ### What every step leaves alone or keeps in order (00_scope.md R5, R7, R10) -/

namespace Sys2Proof.Machine

/-- No sequencer step writes the parameters. -/
theorem tick_cfg (s : State) : (tick s).cfg = s.cfg := by
  rw [tick]
  split
  · rfl
  · exact (perform_frame _ _).cfg
  · rfl
  · split <;> rfl

/-- The block keeps the parameters. -/
theorem keptByBlock_cfg (c : Params) : KeptByBlock fun s => s.cfg = c where
  inbox _ _ h := h
  tick s h := (tick_cfg s).trans h
  refuse _ _ h := h
  accept _ _ _ _ h := h
  hostRead r s h := by
    rw [hostRead]
    split <;> exact h

/-- Settles O5: the block keeps the parameters, and so do an `IRQ_EN` write and a hardware reset. -/
theorem stepNeverChangesParameters : Obligations.StepNeverChangesParameters := by
  intro s t ht
  exact (keptByBlock_cfg s.cfg).step rfl ht (fun _ _ _ _ => rfl) fun _ _ => rfl

/-- Whether the line is released where a trace ends; the first argument says whether it is where the trace begins. -/
def Trace.releasedAfter : Bool → List Event → Bool
  | released, [] => released
  | _, .release :: t => releasedAfter true t
  | _, .low :: t => releasedAfter false t
  | _, .high :: t => releasedAfter false t
  | released, .sample _ :: t => releasedAfter released t
  | released, .waitUs _ :: t => releasedAfter released t
  | released, .waitMs _ :: t => releasedAfter released t
  | released, .mask :: t => releasedAfter released t
  | released, .unmask :: t => releasedAfter released t

/-- The samples of two traces one after the other: the second begins as the first ends. -/
theorem Trace.samplesReleased_append (released : Bool) (a b : List Event) :
    samplesReleased released (a ++ b) =
      (samplesReleased released a && samplesReleased (releasedAfter released a) b) := by
  induction a generalizing released with
  | nil => rfl
  | cons e a ih => cases e <;> simp only [List.cons_append, samplesReleased, releasedAfter, ih, Bool.and_assoc]

/-- Where two traces one after the other end. -/
theorem Trace.releasedAfter_append (released : Bool) (a b : List Event) :
    releasedAfter released (a ++ b) = releasedAfter (releasedAfter released a) b := by
  induction a generalizing released with
  | nil => rfl
  | cons e a ih => cases e <;> simp only [List.cons_append, releasedAfter, ih]

/-- What a run of the block from `s` to `t` adds to the trace samples only while the line is released, and tells of a line
that is released in `t`. -/
def SampledReleased (s t : State) : Prop :=
  ∃ evs, t.trace = s.trace ++ evs ∧ Trace.samplesReleased (s.dir == .inp) evs = true ∧
    (t.dir == .inp) = Trace.releasedAfter (s.dir == .inp) evs

/-- A run that adds no event and leaves the pin's direction. -/
theorem SampledReleased.of_eq {s t : State} (htrace : t.trace = s.trace) (hdir : t.dir = s.dir) : SampledReleased s t :=
  ⟨[], by rw [htrace, List.append_nil], rfl, by rw [hdir]; rfl⟩

/-- A run that adds one event. -/
theorem SampledReleased.of_event {s t : State} (e : Event) (htrace : t.trace = s.trace ++ [e])
    (hsample : Trace.samplesReleased (s.dir == .inp) [e] = true)
    (hdir : (t.dir == .inp) = Trace.releasedAfter (s.dir == .inp) [e]) : SampledReleased s t :=
  ⟨[e], htrace, hsample, hdir⟩

/-- Two runs after one another. -/
theorem SampledReleased.trans {s t u : State} (hst : SampledReleased s t) (htu : SampledReleased t u) :
    SampledReleased s u := by
  obtain ⟨a, ha, hsa, hra⟩ := hst
  obtain ⟨b, hb, hsb, hrb⟩ := htu
  rw [hra] at hsb hrb
  refine ⟨a ++ b, by rw [hb, ha, List.append_assoc], ?_, ?_⟩
  · rw [Trace.samplesReleased_append, hsa, hsb]
    rfl
  · rw [Trace.releasedAfter_append, hrb]

/-- The line is released where an operation in progress is about to sample (Safety, the discipline of the pending
steps). -/
theorem BusyInv.dir_of_sample {s : State} {x : Latch} {rest : List Micro}
    (hp : s.pending = .prim (.lineSample x) :: rest) (h : BusyInv s) : s.dir = .inp := by
  obtain ⟨masked, fresh, hset, -, -⟩ := h
  rw [hp, settles_cons (by simp)] at hset
  obtain ⟨sh', hsh, -⟩ := hset
  simp only [Shape.micro, Shape.prim, Option.ite_none_right_eq_some, Bool.and_eq_true, beq_iff_eq] at hsh
  obtain ⟨⟨-, hdir⟩, -⟩ := hsh
  exact hdir

/-- A primitive of an operation in progress samples only while the line is released. -/
theorem perform_sampledReleased {s : State} {p : Prim} {rest : List Micro} (hp : s.pending = .prim p :: rest)
    (h : BusyInv s) : SampledReleased s (perform p { s with pending := rest }) := by
  cases p with
  | lineOutLow => exact .of_event .low rfl rfl rfl
  | lineOutHigh => exact .of_event .high rfl rfl rfl
  | lineRelease => exact .of_event .release rfl rfl rfl
  | lineSample x =>
    have hdir := h.dir_of_sample hp
    refine .of_event (.sample (s.answer 0)) ?_ ?_ ?_
    · cases x <;> rfl
    · rw [hdir]
      rfl
    · cases x <;> rfl
  | waitUs n => exact .of_event (.waitUs n) rfl rfl rfl
  | waitMs n => exact .of_event (.waitMs n) rfl rfl rfl
  | maskEnter => exact .of_event .mask rfl rfl rfl
  | maskExit => exact .of_event .unmask rfl rfl rfl
  | clearBuf b => cases b <;> exact .of_eq rfl rfl
  | accumulate b =>
    simp only [perform, State.accumulate]
    split
    · cases b <;> exact .of_eq rfl rfl
    · exact .of_eq rfl rfl
  | _ => exact .of_eq rfl rfl

/-- A sequencer step samples only while the line is released. -/
theorem tick_sampledReleased {s : State} (h : Inv s) : SampledReleased s (tick s) := by
  cases hp : s.pending with
  | nil =>
    rw [tick, hp]
    exact .of_eq rfl rfl
  | cons m rest =>
    cases m with
    | prim p =>
      rw [tick_prim hp]
      exact perform_sampledReleased hp (h.busyInv hp)
    | routeSlot =>
      simp only [tick, hp]
      exact .of_eq rfl rfl
    | untilOne =>
      simp only [tick, hp]
      split <;> exact .of_eq rfl rfl

/-- From a state on, the block samples only while the line is released. -/
theorem keptByBlock_sampledReleased (s : State) : KeptByBlock fun t => Inv t ∧ SampledReleased s t where
  inbox t _ h := ⟨h.1, h.2.trans (.of_eq rfl rfl)⟩
  tick t h := ⟨tick_inv t h.1, h.2.trans (tick_sampledReleased h.1)⟩
  refuse t _ h := ⟨h.1, h.2.trans (.of_eq rfl rfl)⟩
  accept i t hb hl h := ⟨accept_inv hb hl h.1, h.2.trans (.of_eq rfl rfl)⟩
  hostRead r t h := by
    refine ⟨hostRead_inv r t h.1, h.2.trans ?_⟩
    rw [hostRead]
    split <;> exact .of_eq rfl rfl

/-- Settles O6: the block samples only while the line is released; a hardware reset adds no event, and an `IRQ_EN` write
none either. -/
theorem samplesOnlyWhileReleased : Obligations.SamplesOnlyWhileReleased := by
  intro s t h ht
  by_cases hreset : ∃ rest, s.inbox = .hwReset :: rest
  · obtain ⟨rest, hin⟩ := hreset
    cases (step_of_inbox_cons hin).symm.trans ht
    exact ⟨[], (List.append_nil _).symm, rfl⟩
  · obtain ⟨-, evs, htrace, hsamples, -⟩ := (keptByBlock_sampledReleased s).step ⟨h, .of_eq rfl rfl⟩ ht
      (fun b rest _ hb => ⟨inv_setIrqEn h hb b rest, .of_eq rfl rfl⟩) fun rest hin => absurd ⟨rest, hin⟩ hreset
    exact ⟨evs, htrace, hsamples⟩

end Sys2Proof.Machine

/-! ### The two grains (00_scope.md R9), and a start while an operation is in progress (70_reset_and_hazards.md R300) -/

namespace Sys2Proof.Machine

/-- No primitive looks at the host's stimuli, or changes them. -/
theorem perform_inbox (p : Prim) (s : State) (xs : List Stimulus) :
    perform p { s with inbox := xs } = { perform p s with inbox := xs } := by
  cases p with
  | lineSample x => cases x <;> rfl
  | clearBuf b => cases b <;> rfl
  | accumulate b => cases b <;> (simp only [perform, State.accumulate]; split <;> rfl)
  | _ => rfl

/-- No sequencer step looks at the host's stimuli, or changes them. -/
theorem tick_inbox (s : State) (xs : List Stimulus) : tick { s with inbox := xs } = { tick s with inbox := xs } := by
  cases hp : s.pending with
  | nil => simp only [tick, hp]
  | cons m rest =>
    cases m with
    | prim p =>
      simp only [tick, hp]
      exact perform_inbox p { s with pending := rest } xs
    | routeSlot => simp only [tick, hp]
    | untilOne => simp only [tick, hp]; split <;> rfl

/-- `n` sequencer steps look at no answer to the host. -/
theorem ticks_reply (n : Nat) (s : State) (r : Reply) :
    ticks n { s with reply := r } = { ticks n s with reply := r } := by
  induction n generalizing s with
  | zero => rfl
  | succ n ih => rw [ticks, tick_reply, ih, ticks]

/-- `n` steps that serve a tick each are `n` sequencer steps. -/
theorem runMachine_ticks (n : Nat) (s : State) :
    runMachine n { s with inbox := List.replicate n .tick } = .next (ticks n { s with inbox := [] }) := by
  induction n generalizing s with
  | zero => rfl
  | succ n ih =>
    have hstep : step { s with inbox := List.replicate (n + 1) .tick } =
        .next { tick s with inbox := List.replicate n .tick } := by
      rw [step_of_inbox_cons List.replicate_succ, handle, ← tick_inbox]
    exact (runMachine_succ n hstep).trans
      ((ih (tick s)).trans (congrArg (Host.Outcome.next ∘ ticks n) (tick_inbox s []).symm))

/-- Acceptance looks at no stimulus of the host, and changes none. -/
theorem acceptOp_inbox (i : Instr) (body : List Micro) (s : State) (xs : List Stimulus) :
    acceptOp i body { s with inbox := xs } = { acceptOp i body s with inbox := xs } := by
  have hrefusal : refusal i { s with inbox := xs } = refusal i s := rfl
  rw [acceptOp, acceptOp, hrefusal]
  cases refusal i s <;> rfl

/-- A body is that of the operation whatever the host's stimuli. -/
theorem bodyOf_inbox (i : Instr) (s : State) (xs : List Stimulus) : bodyOf i { s with inbox := xs } = bodyOf i s := by
  cases i <;> rfl

/-- An operation accepted and then ticked `n` times. -/
theorem runMachine_accept {command : List Byte} {i : Instr} (hdec : decode command = .ok i) (n : Nat) (s : State) :
    runMachine (n + 1) { s with inbox := .accept command :: List.replicate n .tick } =
      .next (ticks n (acceptOp i (bodyOf i s) { s with inbox := [] })) := by
  have hstep : step { s with inbox := .accept command :: List.replicate n .tick } =
      .next { acceptOp i (bodyOf i s) s with inbox := List.replicate n .tick } := by
    rw [step_of_inbox_cons rfl, handle, hostAccept, hdec, ← acceptOp_inbox]
    simp only [bodyOf_inbox]
  rw [runMachine_succ n hstep, runMachine_ticks]
  exact congrArg (Host.Outcome.next ∘ ticks n) (acceptOp_inbox i (bodyOf i s) s []).symm

/-- Settles O19: the operation run from its acceptance is some number of sequencer steps; a refused start is the same in
both grains, after none. -/
theorem primitiveRunEqualsOperation : Obligations.PrimitiveRunEqualsOperation := by
  intro command i s hdec
  have hbody := bodyOf_inbox i s []
  obtain ⟨why, hr⟩ | ⟨hr, -, -⟩ := refusal_cases i { s with inbox := [] }
  · refine ⟨0, State.refuse { s with inbox := [] } why, ?_, ?_⟩
    · rw [exec_eq_startOp, startOp, hr]
    · rw [runMachine_accept hdec, acceptOp, hr]
      rfl
  · obtain ⟨n, hn⟩ := advance_eq_ticks (State.accept { s with inbox := [] } i (bodyOf i s))
    refine ⟨n, ticks n (State.accept { s with inbox := [] } i (bodyOf i s)), ?_, (runMachine_accept hdec n s).trans ?_⟩
    · rw [exec_eq_startOp, startOp, hr, hbody, ← hn]
    · rw [acceptOp, hr]

/-- Either kind of start while `BUSY = 1` is a refusal. -/
theorem step_start_busy {s : State} {x : Stimulus} {command : List Byte} {rest : List Stimulus}
    (hx : x = .start command ∨ x = .accept command) (hb : s.busy = true) :
    ∃ why, step { s with inbox := x :: rest } = .next (State.refuse { s with inbox := rest } why) := by
  obtain rfl | rfl := hx
  all_goals
    rw [step_of_inbox_cons rfl]
    cases hdec : decode command with
    | error e => exact ⟨.badCommand e, by simp only [handle, hostStart, hostAccept, hdec]⟩
    | ok i => exact ⟨.busy, by simp only [handle, hostStart, hostAccept, hdec, exec_busy, acceptOp_busy, hb]⟩

/-- Settles O52: the refused start changes the reply alone, at which no sequencer step looks. -/
theorem refusedStartLeavesTheOperation : Obligations.RefusedStartLeavesTheOperation := by
  intro command x s n hb hx
  obtain ⟨why, hstep⟩ := step_start_busy (rest := List.replicate n .tick) hx hb
  refine ⟨_, _, runMachine_ticks n s, (runMachine_succ n hstep).trans (runMachine_ticks n (s.refuse why)), ?_⟩
  exact congrArg (fun t : State => { t with reply := (ticks n { s with inbox := [] }).reply })
    (ticks_reply n { s with inbox := [] } (.refusedStart why))

end Sys2Proof.Machine

/-! ### Which registers an operation writes (10_state.md R23 to R26) and reads (60_exceptions.md R262) -/

namespace Sys2Proof.Machine

/-- The host-readable registers that are written together, and `RB`. -/
inductive RegGroup where
  /-- `ROM` -/
  | rom
  /-- `SP` and the registers decoded from it -/
  | scratchpad
  /-- `DETECTED` -/
  | detected
  /-- `PARASITE` -/
  | parasite
  /-- `ALARM` -/
  | alarm
  /-- `RB` -/
  | rb
deriving DecidableEq

/-- What the registers of a group hold together. -/
abbrev RegGroup.Value : RegGroup → Type
  | .rom => Vector Byte 8
  | .scratchpad => Vector Byte 9 × BitVec 16 × Byte × Byte × Nat
  | .detected | .parasite | .alarm => Bool
  | .rb => Option Bool

/-- The registers of a group in a state. -/
def RegGroup.view (s : State) : (g : RegGroup) → g.Value
  | .rom => s.rom
  | .scratchpad => (s.sp, s.tempRaw, s.th, s.tl, s.res)
  | .detected => s.detected
  | .parasite => s.parasite
  | .alarm => s.alarm
  | .rb => s.rb

/-- The group of a buffer. -/
def Buf.group : Buf → RegGroup
  | .rom => .rom
  | .sp => .scratchpad

/-- The group a primitive writes. -/
def Prim.writes : Prim → Option RegGroup
  | .clearBuf b | .accumulate b => some b.group
  | .decodeScratchpad => some .scratchpad
  | .setDetected => some .detected
  | .setParasite => some .parasite
  | .setAlarm => some .alarm
  | .handRb => some .rb
  | .lineOutLow | .lineOutHigh | .lineRelease | .lineSample _ | .waitUs _ | .waitMs _ | .maskEnter | .maskExit
  | .loadShift _ | .setBitIdx _ | .busyOff => none

/-- The primitive leaves the registers of the group alone. -/
def Prim.spares (g : RegGroup) (p : Prim) : Bool := p.writes != some g

/-- The groups an operation writes, by the model's own table `writesReg` for the host-readable registers; READBIT alone
hands over `RB` (40_timeslot_primitives.md R140). -/
def RegGroup.writtenBy (i : Instr) : RegGroup → Bool
  | .rom => writesReg i (.rom 0)
  | .scratchpad => writesReg i .tempRaw
  | .detected => writesReg i .detected
  | .parasite => writesReg i .parasite
  | .alarm => writesReg i .alarm
  | .rb => i == .readbit

/-- A primitive that spares a group leaves its registers as they are. -/
theorem view_perform {g : RegGroup} {p : Prim} (h : p.spares g = true) (s : State) :
    g.view (perform p s) = g.view s := by
  cases p with
  | setDetected => cases g with | detected => cases h | _ => rfl
  | setParasite => cases g with | parasite => cases h | _ => rfl
  | setAlarm => cases g with | alarm => cases h | _ => rfl
  | handRb => cases g with | rb => cases h | _ => rfl
  | decodeScratchpad => cases g with | scratchpad => cases h | _ => rfl
  | clearBuf b =>
    cases b with
    | rom => cases g with | rom => cases h | _ => rfl
    | sp => cases g with | scratchpad => cases h | _ => rfl
  | accumulate b =>
    simp only [perform, State.accumulate]
    split
    · cases b with
      | rom => cases g with | rom => cases h | _ => rfl
      | sp => cases g with | scratchpad => cases h | _ => rfl
    · rfl
  | lineSample x => cases x <;> cases g <;> rfl
  | _ => cases g <;> rfl

/-- Steps whose primitives all spare a group. -/
def sparesAll (g : RegGroup) (ms : List Micro) : Bool := ms.all (Micro.within (Prim.spares g))

theorem sparesAll_append (g : RegGroup) (ms ns : List Micro) :
    sparesAll g (ms ++ ns) = (sparesAll g ms && sparesAll g ns) := List.all_append

theorem sparesAll_flatMap {α : Type} (g : RegGroup) (l : List α) (f : α → List Micro)
    (h : ∀ a, sparesAll g (f a) = true) : sparesAll g (l.flatMap f) = true := by
  induction l with
  | nil => rfl
  | cons a l ih => rw [List.flatMap_cons, sparesAll_append, h, ih]; rfl

/-- `Reset()` writes `DETECTED` alone. -/
theorem sparesAll_reset (g : RegGroup) (c : Params) : sparesAll g (Proc.steps (Proc.reset c)) = (g != .detected) := by
  cases g <;> rfl

/-- A read slot for one bit writes no register. -/
theorem sparesAll_readBit1 (g : RegGroup) (c : Params) : sparesAll g (Proc.steps (Proc.readBit1 c)) = true := by
  cases g <;> rfl

/-- A completion poll writes no register. -/
theorem sparesAll_pollUntilOne (g : RegGroup) (c : Params) : sparesAll g (Proc.pollUntilOne c) = true := by
  cases g <;> rfl

/-- A framer call writes no register. -/
theorem sparesAll_writeBytes (g : RegGroup) (v : BitVec 32) (n : Nat) : sparesAll g (Proc.writeBytes v n) = true := by
  rw [Proc.writeBytes, sparesAll_append, sparesAll_append, sparesAll_flatMap g _ _ fun k => by cases g <;> rfl]
  cases g <;> rfl

theorem sparesAll_opcode (g : RegGroup) (op : Byte) : sparesAll g (Proc.opcode op) = true :=
  sparesAll_writeBytes g _ 1

/-- The deserializer writes its buffer alone. -/
theorem sparesAll_readBits {g : RegGroup} {b : Buf} (h : g ≠ b.group) (c : Params) (n : Nat) :
    sparesAll g (Proc.steps (Proc.readBits c b n)) = true := by
  rw [Proc.readBits, steps_append, steps_append, steps_flatMap, sparesAll_append, sparesAll_append,
    sparesAll_flatMap g _ _ fun k => ?_]
  · simp [sparesAll, Proc.steps, Micro.within, Prim.spares, Prim.writes, h.symm]
  · simp [sparesAll, Proc.steps, Proc.readTurn, Proc.slotR, Micro.within, Prim.spares, Prim.writes, h.symm]

/-- The prologue writes `DETECTED` alone. -/
theorem sparesAll_fnPrologue (g : RegGroup) (c : Params) (op : Byte) :
    sparesAll g (Proc.fnPrologue c op) = (g != .detected) := by
  rw [Proc.fnPrologue, sparesAll_append, sparesAll_append, sparesAll_reset, Proc.romSkip, sparesAll_opcode,
    sparesAll_opcode, Bool.and_true, Bool.and_true]

section
variable {g : RegGroup} (s : State) (hd : g ≠ .detected)
include hd

/-- READ_POWER_SUPPLY's body writes `DETECTED` and `PARASITE` alone. -/
theorem sparesAll_bodyReadPowerSupply (hp : g ≠ .parasite) : sparesAll g (bodyReadPowerSupply s) = true := by
  rw [bodyReadPowerSupply, steps_append, sparesAll_append, sparesAll_append, sparesAll_fnPrologue, sparesAll_readBit1]
  simp [sparesAll, Proc.steps, Micro.within, Prim.spares, Prim.writes, hd, hp.symm]

/-- READ_SCRATCHPAD's body writes `DETECTED`, the scratchpad and what is decoded from it alone. -/
theorem sparesAll_bodyReadScratchpad (hs : g ≠ .scratchpad) : sparesAll g (bodyReadScratchpad s) = true := by
  rw [bodyReadScratchpad, steps_append, sparesAll_append, sparesAll_append, sparesAll_fnPrologue,
    sparesAll_readBits (b := .sp) hs]
  simp [sparesAll, Proc.steps, Micro.within, Prim.spares, Prim.writes, hd, hs.symm]

/-- READ_ROM's body writes `DETECTED` and `ROM` alone. -/
theorem sparesAll_bodyReadRom (hr : g ≠ .rom) : sparesAll g (bodyReadRom s) = true := by
  rw [bodyReadRom, Proc.romRead, sparesAll_append, sparesAll_append, sparesAll_reset, sparesAll_opcode,
    sparesAll_readBits (b := .rom) hr]
  simp [hd]

end

/-- An operation's body writes the groups of its own alone. -/
theorem sparesAll_bodyOf {i : Instr} {g : RegGroup} (h : g.writtenBy i = false) (s : State) :
    sparesAll g (bodyOf i s) = true := by
  have hne : ∀ g', g'.writtenBy i = true → g ≠ g' := by
    rintro g' hg' rfl
    exact Bool.false_ne_true (h.symm.trans hg')
  cases i with
  | readRom => exact sparesAll_bodyReadRom s (hne .detected rfl) (hne .rom rfl)
  | matchRom =>
    rw [bodyOf, bodyMatchRom, Proc.romMatch, sparesAll_append, sparesAll_append, sparesAll_reset, sparesAll_opcode,
      Proc.sendRom, sparesAll_flatMap g _ _ (sparesAll_opcode g)]
    simp [hne .detected rfl]
  | skipRom =>
    rw [bodyOf, bodySkipRom, Proc.romSkip, sparesAll_append, sparesAll_reset, sparesAll_opcode]
    simp [hne .detected rfl]
  | alarmSearch =>
    rw [bodyOf, bodyAlarmSearch, Proc.romAlarm, steps_append, sparesAll_append, sparesAll_append, sparesAll_append,
      sparesAll_reset, sparesAll_opcode, sparesAll_readBit1]
    simp [sparesAll, Proc.steps, Micro.within, Prim.spares, Prim.writes, hne .detected rfl, (hne .alarm rfl).symm]
  | convertT =>
    rw [bodyOf, bodyConvertT, sparesAll_append, sparesAll_fnPrologue]
    split
    · simp [sparesAll, Proc.steps, Micro.within, Prim.spares, Prim.writes, hne .detected rfl]
    · simp [sparesAll_pollUntilOne, hne .detected rfl]
  | writeScratchpad th tl res =>
    rw [bodyOf, bodyWriteScratchpad, sparesAll_append, sparesAll_fnPrologue, sparesAll_writeBytes]
    simp [hne .detected rfl]
  | readScratchpad => exact sparesAll_bodyReadScratchpad s (hne .detected rfl) (hne .scratchpad rfl)
  | copyScratchpad =>
    rw [bodyOf, bodyCopyScratchpad, sparesAll_append, sparesAll_fnPrologue]
    split
    · simp [sparesAll, Proc.steps, Micro.within, Prim.spares, Prim.writes, hne .detected rfl]
    · simp [sparesAll, hne .detected rfl]
  | recallE2 =>
    rw [bodyOf, bodyRecallE2, sparesAll_append, sparesAll_fnPrologue, sparesAll_pollUntilOne]
    simp [hne .detected rfl]
  | readPowerSupply => exact sparesAll_bodyReadPowerSupply s (hne .detected rfl) (hne .parasite rfl)
  | reset =>
    rw [bodyOf, bodyReset, sparesAll_reset]
    simp [hne .detected rfl]
  | write0 => cases g <;> rfl
  | write1 => cases g <;> rfl
  | readbit =>
    rw [bodyOf, bodyReadbit, steps_append, sparesAll_append, sparesAll_readBit1]
    simp [sparesAll, Proc.steps, Micro.within, Prim.spares, Prim.writes, (hne .rb rfl).symm]
  | writeBytes v n => exact sparesAll_writeBytes g v _
  | init =>
    rw [bodyOf, bodyInit, sparesAll_append, sparesAll_append,
      sparesAll_bodyReadPowerSupply s (hne .detected rfl) (hne .parasite rfl),
      sparesAll_bodyReadScratchpad s (hne .detected rfl) (hne .scratchpad rfl),
      sparesAll_bodyReadRom s (hne .detected rfl) (hne .rom rfl)]
    rfl

/-- Steps that spare a group leave its registers as they are. -/
theorem view_runSteps {g : RegGroup} {ms : List Micro} (h : sparesAll g ms = true) (s : State) :
    g.view (runSteps ms s) = g.view s := by
  refine runSteps_keeps (fun t => g.view t = g.view s) (Prim.spares g)
    (fun p t hp ht => (view_perform hp t).trans ht) (fun t _ ht => ?_) (fun c b => ?_) ms h s rfl
  · rw [← ht]
    cases g <;> rfl
  · cases b <;> cases g <;> rfl

/-- An operation leaves the registers of a group that it does not write as they are, refused or not. -/
theorem view_exec {i : Instr} {g : RegGroup} (h : g.writtenBy i = false) {s t : State} (ht : exec i s = .next t) :
    g.view t = g.view s := by
  obtain ⟨why, hr⟩ | ⟨-, -, ha⟩ := exec_cases i s
  · cases hr.symm.trans ht
    cases g <;> rfl
  · cases ha.symm.trans ht
    have hsteps : sparesAll g (bodyOf i s ++ [.prim .busyOff]) = true := by
      rw [sparesAll_append, sparesAll_bodyOf h]
      rfl
    refine (view_runSteps hsteps _).trans ?_
    cases g <;> rfl

/-- Settles O49: group by group, an operation not named is one that `writtenBy` rules out. -/
theorem onlyTheNamedOperationsWrite : Obligations.OnlyTheNamedOperationsWrite := by
  intro i s t ht
  have hview : ∀ g : RegGroup, g.writtenBy i = false → g.view t = g.view s := fun g h => view_exec h ht
  refine ⟨fun hr hi => ?_, fun hr hi => ?_, fun hr hi => ?_, fun ha => ?_, fun hraw => ?_, fun hr => ?_⟩
  · exact hview .rom (by simp [RegGroup.writtenBy, writesReg, hr, hi])
  · simpa only [RegGroup.view, Prod.mk.injEq] using
      hview .scratchpad (by simp [RegGroup.writtenBy, writesReg, writesScratchpad, hr, hi])
  · exact hview .parasite (by simp [RegGroup.writtenBy, writesReg, hr, hi])
  · exact hview .alarm (by simp [RegGroup.writtenBy, writesReg, ha])
  · refine hview .detected ?_
    obtain rfl | rfl | rfl | ⟨v, n, rfl⟩ := hraw <;> rfl
  · exact hview .rb (by simp [RegGroup.writtenBy, hr])

/-- A primitive looks at no `DETECTED`: from states that differ in it alone it comes to states that differ in it alone at
most. -/
theorem perform_detected (p : Prim) (s : State) (d : Bool) :
    ∃ d', perform p { s with detected := d } = { perform p s with detected := d' } := by
  cases p with
  | setDetected => exact ⟨presence s.latchS1 s.latchS2, rfl⟩
  | lineSample x => cases x <;> exact ⟨d, rfl⟩
  | clearBuf b => cases b <;> exact ⟨d, rfl⟩
  | accumulate b => cases b <;> (simp only [perform, State.accumulate]; split <;> exact ⟨d, rfl⟩)
  | _ => exact ⟨d, rfl⟩

/-- The same of primitives one after the other. -/
theorem performAll_detected (ps : List Prim) (s : State) (d : Bool) :
    ∃ d', performAll ps { s with detected := d } = { performAll ps s with detected := d' } := by
  induction ps generalizing s d with
  | nil => exact ⟨d, rfl⟩
  | cons p ps ih =>
    obtain ⟨d', hd⟩ := perform_detected p s d
    rw [performAll_cons, hd, performAll_cons]
    exact ih (perform p s) d'

/-- The same of sequencer steps. -/
theorem runSteps_detected (ms : List Micro) (s : State) (d : Bool) :
    ∃ d', runSteps ms { s with detected := d } = { runSteps ms s with detected := d' } := by
  induction ms generalizing s d with
  | nil => exact ⟨d, rfl⟩
  | cons m ms ih =>
    cases m with
    | prim p =>
      obtain ⟨d', hd⟩ := perform_detected p s d
      rw [runSteps, hd, runSteps]
      exact ih (perform p s) d'
    | routeSlot =>
      obtain ⟨d', hd⟩ := performAll_detected (Proc.slotW s.cfg (shiftBit s.shift s.bitIdx)) s d
      rw [runSteps, hd, runSteps]
      exact ih _ d'
    | untilOne =>
      simp only [runSteps]
      split
      · exact ih s d
      · exact ⟨d, rfl⟩

/-- Settles O50: neither the refusal of a start nor a body nor a step of it looks at `DETECTED`. -/
theorem detectedIsNeverRead : Obligations.DetectedIsNeverRead := by
  intro i s t d ht
  have hbody : bodyOf i { s with detected := d } = bodyOf i s := by cases i <;> rfl
  have hrefusal : refusal i { s with detected := d } = refusal i s := rfl
  rw [exec_eq_startOp, startOp] at ht
  rw [exec_eq_startOp, startOp, hbody, hrefusal]
  cases hr : refusal i s with
  | some why =>
    rw [hr] at ht
    cases ht
    exact ⟨_, rfl, rfl⟩
  | none =>
    rw [hr] at ht
    cases ht
    obtain ⟨d', hd⟩ := runSteps_detected (bodyOf i s ++ [.prim .busyOff]) (s.accept i (bodyOf i s)) d
    exact ⟨_, congrArg Host.Outcome.next hd, rfl⟩

end Sys2Proof.Machine

/-! ### How an operation ends (10_state.md R27; 60_exceptions.md R266, R268) -/

namespace Sys2Proof.Machine

/-- The state in which an operation started in `s` ends after `k` samples and the events `evs`: the line driven high,
`BUSY = 0`, the interrupt enable restored, the host-readable registers `d`; `s1`, `s2`, `b` are what the pseudocode's local
variables hold. -/
def State.endedWith (s : State) (k : Nat) (evs : List Event) (s1 s2 b : Bool) (d : DataRegs) : State :=
  { s with
    dir := .out, lvl := true, irqSaved := s.irqEn, rom := d.rom, sp := d.sp, tempRaw := d.tempRaw, th := d.th,
    tl := d.tl, res := d.res, detected := d.detected, parasite := d.parasite, alarm := d.alarm, busy := false,
    curOp := Config.idleCurOp s.freeUsed, bitIdx := (Config.idleBitIdx s.freeUsed).val,
    shift := Config.idleShift s.freeUsed, pending := [], latchS1 := s1, latchS2 := s2, latchB := b,
    trace := s.trace ++ evs, line := s.line.drop k, draws := s.draws + k, freeUsed := s.freeUsed + 1, rb := d.rb,
    reply := .accepted }

section
variable (s : State) (k : Nat) (evs : List Event) (s1 s2 b : Bool) (d : DataRegs)

/-- Such a state is the end of an operation as the statements have it. -/
theorem ended_endedWith : Ended s (s.endedWith k evs s1 s2 b d) k evs := by
  constructor <;> rfl

@[simp] theorem data_endedWith : (s.endedWith k evs s1 s2 b d).data = d := rfl
@[simp] theorem sp_endedWith : (s.endedWith k evs s1 s2 b d).sp = d.sp := rfl
@[simp] theorem tempRaw_endedWith : (s.endedWith k evs s1 s2 b d).tempRaw = d.tempRaw := rfl
@[simp] theorem th_endedWith : (s.endedWith k evs s1 s2 b d).th = d.th := rfl
@[simp] theorem tl_endedWith : (s.endedWith k evs s1 s2 b d).tl = d.tl := rfl
@[simp] theorem res_endedWith : (s.endedWith k evs s1 s2 b d).res = d.res := rfl

end

/-- The host-readable registers after a command that begins with a `Reset` and writes nothing else: `DETECTED` is computed
from the two samples (40_timeslot_primitives.md R131). -/
def State.afterReset (s : State) : DataRegs := { s.data with detected := presence (s.answer 0) (s.answer 1) }

/-! ### The meanings of the operations while `BUSY = 0` -/

/-- RESET (40_timeslot_primitives.md R137). -/
theorem exec_reset_endedWith {s : State} (hb : s.busy = false) :
    exec .reset s = .next (s.endedWith 2 (Trace.rst s.cfg (s.answer 0) (s.answer 1)) (s.answer 0) (s.answer 1) s.latchB
      s.afterReset) := exec_reset_idle s hb

/-- One slot in its own masked region (40_timeslot_primitives.md R138). -/
theorem runSteps_maskedSlot (b : Bool) (s : State) :
    runSteps (Proc.steps (.maskEnter :: Proc.slotW s.cfg b ++ [.maskExit]) ++ [.prim .busyOff]) s =
      { s with
        dir := .out, lvl := true, irqSaved := s.irqEn, trace := s.trace ++ (.mask :: Trace.slot s.cfg b ++ [.unmask]),
        busy := false, pending := [], curOp := Config.idleCurOp s.freeUsed,
        bitIdx := (Config.idleBitIdx s.freeUsed).val, shift := Config.idleShift s.freeUsed,
        freeUsed := s.freeUsed + 1 } := by
  rw [runSteps_steps, List.cons_append, performAll_cons, performAll_append, performAll_slotW, runSteps_busyOff]
  simp [perform, State.emit, State.maskEnter, State.maskExit]

/-- WRITE0 (40_timeslot_primitives.md R138). -/
theorem exec_write0_endedWith {s : State} (hb : s.busy = false) :
    exec .write0 s = .next (s.endedWith 0 (.mask :: Trace.w0 s.cfg ++ [.unmask]) s.latchS1 s.latchS2 s.latchB s.data) :=
  (exec_idle .write0 s hb rfl).trans (congrArg Host.Outcome.next (runSteps_maskedSlot false _))

/-- WRITE1 (40_timeslot_primitives.md R138). -/
theorem exec_write1_endedWith {s : State} (hb : s.busy = false) :
    exec .write1 s = .next (s.endedWith 0 (.mask :: Trace.w1 s.cfg ++ [.unmask]) s.latchS1 s.latchS2 s.latchB s.data) :=
  (exec_idle .write1 s hb rfl).trans (congrArg Host.Outcome.next (runSteps_maskedSlot true _))

/-- READBIT (40_timeslot_primitives.md R140). -/
theorem exec_readbit_endedWith {s : State} (hb : s.busy = false) :
    exec .readbit s = .next (s.endedWith 1 (Trace.bit1 s.cfg (s.answer 0)) s.latchS1 s.latchS2 (s.answer 0)
      { s.data with rb := some (s.answer 0) }) := by
  rw [exec_idle .readbit s hb rfl, bodyOf, bodyReadbit, runSteps_steps, performAll_append, performAll_readBit1,
    runSteps_busyOff]
  simp [State.endedWith, perform, State.answer, State.data]

/-- READ_ROM (42_rom_commands.md R181). -/
theorem exec_readRom_endedWith {s : State} (hb : s.busy = false) (hn : s.cfg.romBits = 64) :
    exec .readRom s = .next (s.endedWith 66 (Trace.rst s.cfg (s.answer 0) (s.answer 1) ++ Trace.w s.cfg 0x33#8 ++
        Trace.bits s.cfg 64 fun k => s.answer (2 + k)) (s.answer 0) (s.answer 1) (s.answer 65)
      { s.afterReset with rom := gathered (Vector.replicate 8 0x00#8) (fun k => s.answer (2 + k)) 64 }) := by
  rw [exec_idle .readRom s hb rfl, bodyOf, bodyReadRom, runSteps_readRom s.cfg hn, runSteps_busyOff]
  · simp only [List.append_assoc]
    rfl
  · rfl

/-- MATCH_ROM (42_rom_commands.md R182). -/
theorem exec_matchRom_endedWith {s : State} (hb : s.busy = false) :
    exec .matchRom s = .next (s.endedWith 2 (Trace.rst s.cfg (s.answer 0) (s.answer 1) ++ Trace.w s.cfg 0x55#8 ++
        Trace.w s.cfg s.rom[0] ++ Trace.w s.cfg s.rom[1] ++ Trace.w s.cfg s.rom[2] ++ Trace.w s.cfg s.rom[3] ++
        Trace.w s.cfg s.rom[4] ++ Trace.w s.cfg s.rom[5] ++ Trace.w s.cfg s.rom[6] ++ Trace.w s.cfg s.rom[7])
      (s.answer 0) (s.answer 1) s.latchB s.afterReset) := by
  rw [exec_idle .matchRom s hb rfl, bodyOf, bodyMatchRom, List.append_assoc, runSteps_reset, runSteps_romMatch,
    runSteps_busyOff]
  simp only [List.append_assoc]
  rfl

/-- SKIP_ROM (42_rom_commands.md R183). -/
theorem exec_skipRom_endedWith {s : State} (hb : s.busy = false) :
    exec .skipRom s = .next (s.endedWith 2 (Trace.rst s.cfg (s.answer 0) (s.answer 1) ++ Trace.w s.cfg 0xCC#8)
      (s.answer 0) (s.answer 1) s.latchB s.afterReset) := by
  rw [exec_idle .skipRom s hb rfl, bodyOf, bodySkipRom, List.append_assoc, runSteps_reset, Proc.romSkip, runSteps_opcode,
    runSteps_busyOff]
  simp only [List.append_assoc]
  rfl

/-- ALARM_SEARCH (42_rom_commands.md R184). -/
theorem exec_alarmSearch_endedWith {s : State} (hb : s.busy = false) :
    exec .alarmSearch s = .next (s.endedWith 3 (Trace.rst s.cfg (s.answer 0) (s.answer 1) ++ Trace.w s.cfg 0xEC#8 ++
        Trace.bit1 s.cfg (s.answer 2)) (s.answer 0) (s.answer 1) (s.answer 2)
      { s.afterReset with alarm := assertedLow (s.answer 2) }) := by
  rw [exec_idle .alarmSearch s hb rfl, bodyOf, bodyAlarmSearch, List.append_assoc, runSteps_reset, Proc.romAlarm,
    List.append_assoc, runSteps_opcode, runSteps_steps, performAll_append, performAll_readBit1, runSteps_busyOff]
  simp [State.endedWith, State.afterReset, State.data, perform, State.answer]

/-- CONVERT_T on parasite power (43_function_commands.md R201). -/
theorem exec_convertT_endedWith {s : State} (hb : s.busy = false) (hp : s.parasite = true) :
    exec .convertT s = .next (s.endedWith 2 (Trace.prologue s.cfg (s.answer 0) (s.answer 1) 0x44#8 ++
        [.waitMs (conversionWaitMs s.cfg s.res)]) (s.answer 0) (s.answer 1) s.latchB s.afterReset) := by
  rw [exec_convertT_parasite s hb hp, List.append_assoc]
  rfl

/-- WRITE_SCRATCHPAD (43_function_commands.md R203). -/
theorem exec_writeScratchpad_endedWith (th tl : Byte) (res : Int) {s : State} (hb : s.busy = false) :
    exec (.writeScratchpad th tl res) s = .next (s.endedWith 2 (Trace.prologue s.cfg (s.answer 0) (s.answer 1) 0x4E#8 ++
        Trace.bytes s.cfg (scratchpadPayload s.cfg th tl res) 3) (s.answer 0) (s.answer 1) s.latchB s.afterReset) := by
  rw [exec_idle _ s hb rfl, bodyOf, bodyWriteScratchpad, List.append_assoc, runSteps_fnPrologue s.cfg,
    runSteps_writeBytes _ 3 (by decide), runSteps_busyOff]
  · simp only [List.append_assoc]
    rfl
  · rfl

/-- READ_SCRATCHPAD (43_function_commands.md R205). -/
theorem exec_readScratchpad_endedWith {s : State} (hb : s.busy = false) (hn : s.cfg.spBits = 72) :
    let sp := gathered (Vector.replicate 9 0x00#8) (fun k => s.answer (2 + k)) 72
    exec .readScratchpad s = .next (s.endedWith 74 (Trace.prologue s.cfg (s.answer 0) (s.answer 1) 0xBE#8 ++
        Trace.bits s.cfg 72 fun k => s.answer (2 + k)) (s.answer 0) (s.answer 1) (s.answer 73)
      { s.afterReset with
        sp := sp, tempRaw := temperatureWord sp, th := sp[2], tl := sp[3], res := decodeRes s.cfg sp[4] }) := by
  rw [exec_readScratchpad_idle s hb hn, List.append_assoc]
  rfl

/-- COPY_SCRATCHPAD (43_function_commands.md R206). -/
theorem exec_copyScratchpad_endedWith {s : State} (hb : s.busy = false) :
    exec .copyScratchpad s = .next (s.endedWith 2 (Trace.prologue s.cfg (s.answer 0) (s.answer 1) 0x48#8 ++
        if s.parasite then [.waitMs s.cfg.tCopyMs] else []) (s.answer 0) (s.answer 1) s.latchB s.afterReset) := by
  rw [exec_idle .copyScratchpad s hb rfl, bodyOf, bodyCopyScratchpad, List.append_assoc, runSteps_fnPrologue s.cfg]
  · split
    · rw [runSteps_steps, runSteps_busyOff]
      simp only [performAll_cons, performAll_nil, perform, State.emit, List.append_assoc]
      rfl
    · rw [List.nil_append, runSteps_busyOff, List.append_nil]
      rfl
  · rfl

/-- READ_POWER_SUPPLY (43_function_commands.md R208). -/
theorem exec_readPowerSupply_endedWith {s : State} (hb : s.busy = false) :
    exec .readPowerSupply s = .next (s.endedWith 3 (Trace.prologue s.cfg (s.answer 0) (s.answer 1) 0xB4#8 ++
        Trace.bit1 s.cfg (s.answer 2)) (s.answer 0) (s.answer 1) (s.answer 2)
      { s.afterReset with parasite := assertedLow (s.answer 2) }) := by
  rw [exec_idle .readPowerSupply s hb rfl, bodyOf, bodyReadPowerSupply, runSteps_readPowerSupply s.cfg,
    runSteps_busyOff]
  · simp only [List.append_assoc]
    rfl
  · rfl

/-- INIT (44_decode_power_init.md R248). -/
theorem exec_init_endedWith {s : State} (hb : s.busy = false) (hsp : s.cfg.spBits = 72) (hrom : s.cfg.romBits = 64) :
    let sp := gathered (Vector.replicate 9 0x00#8) (fun k => s.answer (5 + k)) 72
    exec .init s = .next (s.endedWith 143 (Trace.prologue s.cfg (s.answer 0) (s.answer 1) 0xB4#8 ++
        Trace.bit1 s.cfg (s.answer 2) ++ Trace.prologue s.cfg (s.answer 3) (s.answer 4) 0xBE#8 ++
        (Trace.bits s.cfg 72 fun k => s.answer (5 + k)) ++ Trace.rst s.cfg (s.answer 77) (s.answer 78) ++
        Trace.w s.cfg 0x33#8 ++ Trace.bits s.cfg 64 fun k => s.answer (79 + k))
      (s.answer 77) (s.answer 78) (s.answer 142)
      { s.data with
        detected := presence (s.answer 77) (s.answer 78), parasite := assertedLow (s.answer 2),
        rom := gathered (Vector.replicate 8 0x00#8) (fun k => s.answer (79 + k)) 64,
        sp := sp, tempRaw := temperatureWord sp, th := sp[2], tl := sp[3], res := decodeRes s.cfg sp[4] }) := by
  rw [exec_idle .init s hb rfl, bodyOf, bodyInit, List.append_assoc, List.append_assoc, bodyReadPowerSupply,
    runSteps_readPowerSupply s.cfg, bodyReadScratchpad, runSteps_readScratchpad s.cfg hsp, bodyReadRom,
    runSteps_readRom s.cfg hrom, runSteps_busyOff]
  · simp [State.endedWith, State.data, State.answer, State.decodeScratchpad, ← Nat.add_assoc]
  all_goals rfl

end Sys2Proof.Machine

/-! ### Time-slot layer and ROM commands (files 40 and 42) -/

namespace Sys2Proof.Machine

/-- Settles O20: the run of `Reset()`; `DETECTED` is `presence` of the two samples. -/
theorem resetRuns : Obligations.ResetRuns := by
  intro s hb
  refine ⟨_, exec_reset_endedWith hb, rfl, ended_endedWith .., rfl, ?_⟩
  show presence (s.answer 0) (s.answer 1) = true ↔ _
  simp only [presence, Bool.and_eq_true, Bool.not_eq_true']

/-- Settles O21: the run of one masked slot, for either bit. -/
theorem writeSlotsRun : Obligations.WriteSlotsRun := by
  intro s hb
  exact ⟨⟨_, exec_write0_endedWith hb, rfl, rfl, ended_endedWith ..⟩,
    ⟨_, exec_write1_endedWith hb, rfl, rfl, ended_endedWith ..⟩⟩

/-- Settles O22: the run of `ReadBit1()`; the sample is handed over. -/
theorem readbitRuns : Obligations.ReadbitRuns := by
  intro s hb
  exact ⟨_, exec_readbit_endedWith hb, rfl, rfl, ended_endedWith ..⟩

/-- Settles O26: bit by bit, the buffer holds what was received. -/
theorem readRomRuns : Obligations.ReadRomRuns := by
  intro s hb hwf
  refine ⟨_, exec_readRom_endedWith hb (Params.romBits_of_wf hwf), rfl, ended_endedWith .., rfl, fun j i hi => ?_⟩
  exact getLsbD_gathered_answer s 2 64 j i hi (by decide)

/-- Settles O27: the run of the reset waveform and of nine framer calls. -/
theorem matchRomRuns : Obligations.MatchRomRuns := by
  intro s hb
  exact ⟨_, exec_matchRom_endedWith hb, rfl, ended_endedWith .., rfl⟩

/-- Settles O28: the run of the reset waveform and of one framer call. -/
theorem skipRomRuns : Obligations.SkipRomRuns := by
  intro s hb
  exact ⟨_, exec_skipRom_endedWith hb, rfl, ended_endedWith .., rfl⟩

/-- Settles O29: the run of the reset waveform, of one framer call and of one masked read slot. -/
theorem alarmSearchRuns : Obligations.AlarmSearchRuns := by
  intro s hb
  exact ⟨_, exec_alarmSearch_endedWith hb, rfl, ended_endedWith .., rfl⟩

end Sys2Proof.Machine

/-! ### Function commands and INIT (files 43 and 44) -/

namespace Sys2Proof.Machine

/-- Settles O31: the run of the prologue and of one timed wait. -/
theorem convertTParasiteRuns : Obligations.ConvertTParasiteRuns := by
  intro s hb hp
  exact ⟨_, exec_convertT_endedWith hb hp, rfl, ended_endedWith .., rfl⟩

/-- The clamp of a well-formed record (43_function_commands.md R204). -/
theorem clampRes_of_wf {c : Params} (hwf : c.wf = true) (res : Int) :
    clampRes c res = if 9 ≤ res ∧ res ≤ 12 then res.toNat else 12 := by
  rw [clampRes, Params.resDefault_of_wf hwf]

/-- Settles O36: the statement's payload is `scratchpadPayload` with the clamp written out. -/
theorem writeScratchpadRuns : Obligations.WriteScratchpadRuns := by
  intro th tl res s hb hwf r cfg
  have hcfg : configByte s.cfg res = cfg := by rw [configByte, clampRes_of_wf hwf]
  rw [← hcfg]
  exact ⟨_, exec_writeScratchpad_endedWith th tl res hb, rfl, ended_endedWith .., rfl⟩

/-- Settles O40: bit by bit, the buffer holds what was received, and the resolution is the decode of its byte 4. -/
theorem readScratchpadRuns : Obligations.ReadScratchpadRuns := by
  intro s hb hwf
  refine ⟨_, exec_readScratchpad_endedWith hb (Params.spBits_of_wf hwf), rfl, ended_endedWith ..,
    fun j i hi => getLsbD_gathered_answer s 2 72 j i hi (by decide), ?_⟩
  rw [data_endedWith, decodeRes_eq s.cfg (Params.resDefault_of_wf hwf)]
  rfl

/-- Settles O45: the run of the prologue, with the wait in one power mode and with nothing in the other. -/
theorem copyScratchpadRuns : Obligations.CopyScratchpadRuns := by
  intro s hb
  exact ⟨_, exec_copyScratchpad_endedWith hb, rfl, ended_endedWith .., rfl⟩

/-- Settles O46: the run of the prologue and of one masked read slot. -/
theorem readPowerSupplyRuns : Obligations.ReadPowerSupplyRuns := by
  intro s hb
  exact ⟨_, exec_readPowerSupply_endedWith hb, rfl, ended_endedWith .., rfl⟩

/-- Settles O47: the runs of three bodies; each buffer holds, bit by bit, the answers of its own reads. -/
theorem initRuns : Obligations.InitRuns := by
  intro s hb hwf
  refine ⟨_, exec_init_endedWith hb (Params.spBits_of_wf hwf) (Params.romBits_of_wf hwf), rfl, ended_endedWith ..,
    fun j i hi => getLsbD_gathered_answer s 5 72 j i hi (by decide),
    fun j i hi => getLsbD_gathered_answer s 79 64 j i hi (by decide), ?_⟩
  rw [data_endedWith, decodeRes_eq s.cfg (Params.resDefault_of_wf hwf)]
  rfl

/-- A byte all of whose bits are 1. -/
theorem byte_eq_allOnes {x : Byte} (h : ∀ i, i < 8 → x.getLsbD i = true) : x = 0xFF#8 :=
  BitVec.eq_of_getLsbD_eq fun i hi => by
    rw [h i hi]
    interval_cases i <;> rfl

/-- Settles O48: with every answer 1 each received bit is 1; `0xFF` decodes to 12 bits, well formed or not. -/
theorem initWithNoDevice : Obligations.InitWithNoDevice := by
  intro s hb hwf hones
  obtain ⟨t, ht, -, -, hspBits, hromBits, hdata⟩ := initRuns s hb hwf
  have hsp : ∀ k (hk : k < 9), t.sp[k] = 0xFF#8 := fun k hk => byte_eq_allOnes fun i hi =>
    (hspBits ⟨k, hk⟩ i hi).trans (hones _ (by dsimp only; omega))
  have hrom : ∀ k : Fin 8, t.rom[k] = 0xFF#8 := fun k => byte_eq_allOnes fun i hi =>
    (hromBits k i hi).trans (hones _ (by omega))
  refine ⟨t, ht, ?_, ?_, fun k => hsp k k.isLt, hrom, ?_, ?_, ?_, ?_⟩
  · have h : t.detected = _ := congrArg DataRegs.detected hdata
    rw [h, hones 77 (by decide)]
    rfl
  · have h : t.parasite = _ := congrArg DataRegs.parasite hdata
    rw [h, hones 2 (by decide)]
    rfl
  · have h : t.tempRaw = t.sp[1] ++ t.sp[0] := congrArg DataRegs.tempRaw hdata
    rw [h, hsp 0 (by decide), hsp 1 (by decide)]
    decide
  · have h : t.th = t.sp[2] := congrArg DataRegs.th hdata
    rw [h, hsp 2 (by decide)]
    decide
  · have h : t.tl = t.sp[3] := congrArg DataRegs.tl hdata
    rw [h, hsp 3 (by decide)]
    decide
  · have h : t.res = _ := congrArg DataRegs.res hdata
    rw [h, hsp 4 (by decide)]
    split <;> rfl

/-- What the deserializer gathers depends on the samples it takes alone. -/
theorem gathered_congr {m : Nat} (buf : Vector Byte m) {a b : Nat → Bool} {n : Nat} (h : ∀ k, k < n → a k = b k) :
    gathered buf a n = gathered buf b n := by
  induction n with
  | zero => rfl
  | succ n ih => rw [gathered, gathered, h n (Nat.lt_succ_self n), ih fun k hk => h k (Nat.lt_succ_of_lt hk)]

/-- Settles O43: both reads gather the same samples into a cleared buffer. -/
theorem readsDependOnAnswersOnly : Obligations.ReadsDependOnAnswersOnly := by
  intro s s' hb hb' hcfg hwf hanswers
  have hwf' : s'.cfg.wf = true := hcfg ▸ hwf
  have hsp := gathered_congr (Vector.replicate 9 0x00#8) (n := 72) fun k hk => hanswers (2 + k) (by omega)
  have hrom := gathered_congr (Vector.replicate 8 0x00#8) (n := 64) fun k hk => hanswers (2 + k) (by omega)
  refine ⟨⟨_, _, exec_readScratchpad_endedWith hb (Params.spBits_of_wf hwf),
    exec_readScratchpad_endedWith hb' (Params.spBits_of_wf hwf'), ?_⟩,
    ⟨_, _, exec_readRom_endedWith hb (Params.romBits_of_wf hwf), exec_readRom_endedWith hb' (Params.romBits_of_wf hwf'),
      hrom⟩⟩
  simp [hsp, hcfg]

/-! ### Completion polling (41_byte_framer.md R167; 43_function_commands.md R201, R207; 60_exceptions.md R265) -/

/-- What `b` holds after `n` polls. -/
def State.lastPoll (s : State) : Nat → Bool
  | 0 => s.latchB
  | n + 1 => s.answer (2 + n)

/-- The trace of an operation that polls, up to its first `n` polls. -/
def State.pollTrace (s : State) (i : Instr) (n : Nat) : List Event :=
  Trace.prologue s.cfg (s.answer 0) (s.answer 1) i.code ++ Trace.polls s.cfg n fun j => s.answer (2 + j)

/-- The state of a block that runs `i`, started in `s`, after the prologue and `n` polls that answered 0, the next poll
pending. -/
def State.waiting (s : State) (i : Instr) (n : Nat) : State :=
  { s with
    dir := .out, lvl := true, irqSaved := s.irqEn, detected := presence (s.answer 0) (s.answer 1), busy := true,
    curOp := i, bitIdx := 7, shift := i.code.setWidth 32,
    pending := Proc.pollUntilOne s.cfg ++ [.prim .busyOff], latchS1 := s.answer 0, latchS2 := s.answer 1,
    latchB := s.lastPoll n, trace := s.trace ++ s.pollTrace i n, line := s.line.drop (2 + n),
    draws := s.draws + (2 + n), reply := .accepted }

/-- One more poll on the line. -/
theorem pollTrace_succ (s : State) (i : Instr) (n : Nat) :
    s.pollTrace i (n + 1) = s.pollTrace i n ++ Trace.bit1 s.cfg (s.answer (2 + n)) := by
  simp [State.pollTrace, Trace.polls, List.range_succ]

/-- The bodies that poll. -/
theorem bodyOf_polling {i : Instr} {s : State} (hi : i = .recallE2 ∨ (i = .convertT ∧ s.parasite = false)) :
    bodyOf i s = Proc.fnPrologue s.cfg i.code ++ Proc.pollUntilOne s.cfg := by
  obtain rfl | ⟨rfl, hp⟩ := hi
  · rfl
  · rw [bodyOf, bodyConvertT, hp]
    rfl

/-- An operation that polls comes, after its prologue, to wait for its first poll. -/
theorem exec_polling {i : Instr} {s : State} (hi : i = .recallE2 ∨ (i = .convertT ∧ s.parasite = false))
    (hb : s.busy = false) : exec i s = .next (advance (s.waiting i 0)) := by
  have hl : i.legal s.cfg = true := by obtain rfl | ⟨rfl, -⟩ := hi <;> rfl
  rw [exec_idle i s hb hl, bodyOf_polling hi, List.append_assoc, runSteps_fnPrologue s.cfg, runSteps_eq_advance]
  · simp [State.waiting, State.lastPoll, State.pollTrace, Trace.polls]
    rfl
  · rfl

/-- The next poll of a block that waits: a 0 leaves one more poll pending, a 1 ends the operation. -/
theorem advance_waiting (i : Instr) (s : State) (n : Nat) :
    advance (s.waiting i n) =
      if s.answer (2 + n) then
        s.endedWith (2 + (n + 1)) (s.pollTrace i (n + 1)) (s.answer 0) (s.answer 1) (s.answer (2 + n)) s.afterReset
      else s.waiting i (n + 1) := by
  have hanswer : (s.waiting i n).answer 0 = s.answer (2 + n) := State.answer_shift rfl rfl 0
  have hline : (s.line.drop (2 + n)).tail = s.line.drop (2 + (n + 1)) := List.tail_drop
  have htrace : s.trace ++ s.pollTrace i n ++ Trace.bit1 s.cfg (s.answer (2 + n)) =
      s.trace ++ s.pollTrace i (n + 1) := by
    rw [pollTrace_succ, List.append_assoc]
  have hpoll := runSteps_pollUntilOne s.cfg [.prim .busyOff] (s.waiting i n) rfl
  rw [hanswer, runSteps_busyOff] at hpoll
  refine hpoll.trans ?_
  split
  · simp only [State.waiting, hline, htrace]
    rfl
  · simp only [State.waiting, hline, htrace]
    rfl

/-- With no stimulus a block that waits takes its next poll. -/
theorem step_waiting (i : Instr) {s : State} (hin : s.inbox = []) (n : Nat) :
    step (s.waiting i n) = .next (advance (s.waiting i n)) := step_of_inbox_nil (s.waiting i n) hin

/-- While every poll answers 0 the block polls once per step. -/
theorem runMachine_waiting (i : Instr) {s : State} (hin : s.inbox = []) {n : Nat}
    (h : ∀ j, j < n → s.answer (2 + j) = false) : runMachine n (s.waiting i 0) = .next (s.waiting i n) := by
  induction n with
  | zero => rfl
  | succ n ih =>
    refine runMachine_snoc n (ih fun j hj => h j (Nat.lt_succ_of_lt hj)) ?_
    rw [step_waiting i hin, advance_waiting, h n (Nat.lt_succ_self n)]
    rfl

/-- The step that starts an operation that polls is the first of the steps that poll. -/
theorem runMachine_exec_polling (i : Instr) {s : State} (hin : s.inbox = []) (k : Nat) :
    runMachine k (advance (s.waiting i 0)) = runMachine (k + 1) (s.waiting i 0) :=
  (runMachine_succ k (step_waiting i hin 0)).symm

/-- Settles O34: the first poll answers 1, in the step that starts the operation. -/
theorem pollingOperationsComplete : Obligations.PollingOperationsComplete := by
  intro s hb h1
  have hends : ∀ i, i = .recallE2 ∨ (i = .convertT ∧ s.parasite = false) → ∃ t, exec i s = .next t ∧
      t.reply = .accepted ∧
      Ended s t 3 (Trace.prologue s.cfg (s.answer 0) (s.answer 1) i.code ++ Trace.bit1 s.cfg true) ∧
      t.data = s.afterReset := by
    intro i hi
    have htrace : s.pollTrace i 1 =
        Trace.prologue s.cfg (s.answer 0) (s.answer 1) i.code ++ Trace.bit1 s.cfg true := by
      rw [pollTrace_succ, h1, State.pollTrace]
      simp [Trace.polls]
    refine ⟨_, exec_polling hi hb, ?_⟩
    rw [advance_waiting, h1, htrace]
    exact ⟨rfl, ended_endedWith .., rfl⟩
  exact ⟨fun hp => hends .convertT (.inr ⟨rfl, hp⟩), hends .recallE2 (.inl rfl)⟩

/-- Settles O33: `k` polls that answer 0, then the one that ends the operation. -/
theorem pollingEndsAtTheFirstOne : Obligations.PollingEndsAtTheFirstOne := by
  intro i s k hi hb hin h0 h1
  have hend : step (s.waiting i k) = .next (s.endedWith (2 + (k + 1)) (s.pollTrace i (k + 1)) (s.answer 0) (s.answer 1)
      (s.answer (2 + k)) s.afterReset) := by
    rw [step_waiting i hin, advance_waiting, if_pos h1]
  refine ⟨_, _, exec_polling hi hb,
    (runMachine_exec_polling i hin k).trans (runMachine_snoc k (runMachine_waiting i hin h0) hend), rfl, ?_, rfl⟩
  rw [show 3 + k = 2 + (k + 1) by omega]
  exact ended_endedWith ..

/-- The trace of polls that all answered 0. -/
theorem polls_of_zero (c : Params) {n : Nat} {b : Nat → Bool} (h : ∀ j, j < n → b j = false) :
    Trace.polls c n b = Trace.polls c n fun _ => false :=
  List.flatMap_congr fun j hj => by rw [h j (List.mem_range.1 hj)]

/-- Settles O35: `n + 1` polls that answer 0 leave the block waiting, with `BUSY = 1`. -/
theorem pollingNeverEnds : Obligations.PollingNeverEnds := by
  intro i s n hi hb hin h0
  have hzero : ∀ j, j < n + 1 → s.answer (2 + j) = false := fun j hj => h0 j (Nat.le_of_lt_succ hj)
  refine ⟨_, _, exec_polling hi hb, (runMachine_exec_polling i hin n).trans (runMachine_waiting i hin hzero), rfl, rfl,
    rfl, rfl, rfl, ?_, fun i' => exec_busy i' rfl⟩
  rw [List.append_assoc, ← polls_of_zero s.cfg hzero]
  rfl

end Sys2Proof.Machine

/-! ### The configuration byte and the temperature (30_encoding.md R98 to R100; 44_decode_power_init.md R241 to R244) -/

namespace Sys2Proof

/-- `CFG_RESERVED` leaves bits 6..5 to the resolution (00_scope.md R5). -/
theorem Params.cfgReserved_of_wf {c : Params} (h : c.wf = true) :
    c.cfgReserved.getLsbD 5 = false ∧ c.cfgReserved.getLsbD 6 = false := by
  simp only [Params.wf, Bool.and_eq_true, Bool.not_eq_true'] at h
  tauto

end Sys2Proof

namespace Sys2Proof.Machine

/-- The resolution is sent as two bits. -/
theorem clampRes_sub_lt {c : Params} (hwf : c.wf = true) (res : Int) : clampRes c res - 9 < 4 := by
  rw [clampRes_of_wf hwf]
  split <;> omega

/-- One bit of the configuration byte (30_encoding.md R99). -/
theorem getLsbD_configByte (c : Params) (res : Int) {k : Nat} (hk : k < 8) :
    (configByte c res).getLsbD k =
      ((!decide (k < 5) && (clampRes c res - 9).testBit (k - 5)) || c.cfgReserved.getLsbD k) := by
  simp only [configByte, BitVec.getLsbD_or, BitVec.getLsbD_shiftLeft, BitVec.getLsbD_ofNat, hk, show k - 5 < 8 by omega,
    decide_true, Bool.true_and]

/-- Bits 6..5 hold the resolution. -/
theorem getLsbD_configByte_resolution {c : Params} (hwf : c.wf = true) (res : Int) {i : Nat} (hi : i < 2) :
    (configByte c res).getLsbD (5 + i) = (clampRes c res - 9).testBit i := by
  obtain ⟨h5, h6⟩ := Params.cfgReserved_of_wf hwf
  have hreserved : c.cfgReserved.getLsbD (5 + i) = false := by interval_cases i <;> assumption
  rw [getLsbD_configByte c res (by omega), hreserved]
  simp

/-- Every other bit is the pattern's. -/
theorem getLsbD_configByte_reserved {c : Params} (hwf : c.wf = true) (res : Int) {k : Nat} (hk : k < 8) (h5 : k ≠ 5)
    (h6 : k ≠ 6) : (configByte c res).getLsbD k = c.cfgReserved.getLsbD k := by
  rw [getLsbD_configByte c res hk]
  obtain hlow | rfl : k < 5 ∨ k = 7 := by omega
  · simp [hlow]
  · have hbit : (clampRes c res - 9).testBit 2 = false := Nat.testBit_lt_two_pow (clampRes_sub_lt hwf res)
    simp [hbit]

/-- The field of the resolution, in numbers. -/
theorem toNat_configByte_resolution {c : Params} (hwf : c.wf = true) (res : Int) :
    ((configByte c res).extractLsb' 5 2).toNat = clampRes c res - 9 := by
  have hfield : (configByte c res).extractLsb' 5 2 = BitVec.ofNat 2 (clampRes c res - 9) :=
    BitVec.eq_of_getLsbD_eq fun i hi => by
      rw [BitVec.getLsbD_extractLsb', getLsbD_configByte_resolution hwf res hi, BitVec.getLsbD_ofNat]
  rw [hfield, BitVec.toNat_ofNat, Nat.mod_eq_of_lt (clampRes_sub_lt hwf res)]

/-- Settles O39: the pattern is 0 where the resolution is shifted to, and the resolution has two bits. -/
theorem configByteFields : Obligations.ConfigByteFields := by
  intro c res hwf r
  have hr : clampRes c res = r := clampRes_of_wf hwf res
  exact ⟨by rw [toNat_configByte_resolution hwf, hr],
    fun k hk h5 h6 => getLsbD_configByte_reserved hwf res hk h5 h6⟩

/-- Settles O38: the byte of each clamped resolution. -/
theorem resolutionClamp : Obligations.ResolutionClamp := by
  intro c res hwf hreserved
  have hbyte : ∀ r, clampRes c res = r → configByte c res = (BitVec.ofNat 8 (r - 9) <<< 5) ||| 0x1F#8 := by
    rintro r rfl
    rw [configByte, hreserved]
  have hclamp := clampRes_of_wf hwf res
  refine ⟨?_, ?_, ?_, ?_, fun hout => ?_⟩
  · rintro rfl
    exact hbyte 9 hclamp
  · rintro rfl
    exact hbyte 10 hclamp
  · rintro rfl
    exact hbyte 11 hclamp
  · rintro rfl
    exact hbyte 12 hclamp
  · rw [if_neg (by omega)] at hclamp
    exact hbyte 12 hclamp

/-- A configuration byte carries the reserved pattern. -/
theorem malformedConfig_configByte {c : Params} (hwf : c.wf = true) (res : Int) :
    malformedConfig c (configByte c res) = false := by
  obtain ⟨h5, h6⟩ := Params.cfgReserved_of_wf hwf
  have hpattern : configByte c res &&& 0x9F#8 = c.cfgReserved := by
    refine BitVec.eq_of_getLsbD_eq fun k hk => ?_
    rw [BitVec.getLsbD_and]
    by_cases hk5 : k = 5
    · subst hk5
      rw [h5]
      exact Bool.and_false _
    by_cases hk6 : k = 6
    · subst hk6
      rw [h6]
      exact Bool.and_false _
    · have hmask : ∀ k, k < 8 → k ≠ 5 → k ≠ 6 → (0x9F#8).getLsbD k = true := by decide
      rw [hmask k hk hk5 hk6, Bool.and_true, getLsbD_configByte_reserved hwf res hk hk5 hk6]
  rw [malformedConfig, hpattern, bne_self_eq_false]

/-- The resolution that was sent is decoded (44_decode_power_init.md R241). -/
theorem decodeRes_configByte {c : Params} (hwf : c.wf = true) (res : Int) :
    decodeRes c (configByte c res) = clampRes c res := by
  have h9 : 9 ≤ clampRes c res := by
    rw [clampRes_of_wf hwf]
    split <;> omega
  rw [decodeRes, malformedConfig_configByte hwf, toNat_configByte_resolution hwf]
  exact Nat.add_sub_of_le h9

/-- Settles O42: the quotient is exact, and a 16-bit word lies in -32768 .. 32767. -/
theorem temperatureIsExact : Obligations.TemperatureIsExact := by
  intro s
  have hmin : (-32768 : Rat) ≤ (s.tempRaw.toInt : Rat) := by exact_mod_cast s.tempRaw.le_toInt
  have hmax : (s.tempRaw.toInt : Rat) ≤ 32767 := by exact_mod_cast Int.le_of_lt_add_one s.tempRaw.toInt_lt
  rw [State.temp]
  refine ⟨div_mul_cancel₀ _ (by norm_num), ?_, ?_⟩ <;> linarith

end Sys2Proof.Machine

/-! ### The scratchpad payload, written and read back (30_encoding.md R98; 43_function_commands.md R203) -/

namespace Sys2Proof.Machine

section
variable (c : Params) (th tl : Byte) (res : Int) {i : Nat} (hi : i < 8)
include hi

/-- The low byte of the payload is `th`. -/
theorem getLsbD_payload_th : (scratchpadPayload c th tl res).getLsbD i = th.getLsbD i := by
  simp [scratchpadPayload, show i < 16 by omega, hi, show i < 32 by omega]

/-- Its second byte is `tl`. -/
theorem getLsbD_payload_tl : (scratchpadPayload c th tl res).getLsbD (8 + i) = tl.getLsbD i := by
  simp [scratchpadPayload, show 8 + i < 16 by omega, show 8 + i < 32 by omega]

/-- Its third byte is the configuration byte. -/
theorem getLsbD_payload_cfg : (scratchpadPayload c th tl res).getLsbD (16 + i) = (configByte c res).getLsbD i := by
  have hth : th.getLsbD (16 + i) = false := BitVec.getLsbD_of_ge th _ (by omega)
  simp [scratchpadPayload, show 16 + i - 8 = 8 + i by omega, show 16 + i < 32 by omega, hth]

end

/-- Settles O44: bytes 2 to 4 of the buffer are the payload's, whose configuration byte decodes to the clamped
resolution. -/
theorem scratchpadRoundTrip : Obligations.ScratchpadRoundTrip := by
  intro th tl res s hb hwf hanswers
  have hbyte : ∀ (j : Fin 9) (o : Nat) (x : Byte), 8 * j.val = 16 + o → o ≤ 16 →
      (∀ i, i < 8 → (scratchpadPayload s.cfg th tl res).getLsbD (o + i) = x.getLsbD i) →
      (gathered (Vector.replicate 9 0x00#8) (fun k => s.answer (2 + k)) 72)[j] = x := by
    intro j o x hj ho hx
    refine BitVec.eq_of_getLsbD_eq fun i hi => ?_
    rw [getLsbD_gathered_answer s 2 72 j i hi (by decide), ← hx i hi, ← hanswers (o + i) (by omega),
      show 2 + (8 * j.val + i) = 18 + (o + i) by omega]
  refine ⟨_, exec_readScratchpad_endedWith hb (Params.spBits_of_wf hwf), ?_, ?_, ?_⟩
  · exact hbyte 2 0 th rfl (by decide) fun i hi => by rw [Nat.zero_add, getLsbD_payload_th s.cfg th tl res hi]
  · exact hbyte 3 8 tl rfl (by decide) fun i hi => getLsbD_payload_tl s.cfg th tl res hi
  · rw [res_endedWith, ← clampRes_of_wf hwf, ← decodeRes_configByte hwf]
    exact congrArg (decodeRes s.cfg)
      (hbyte 4 16 (configByte s.cfg res) rfl (by decide) fun i hi => getLsbD_payload_cfg s.cfg th tl res hi)

end Sys2Proof.Machine

/-! ### What the low times on the line tell (00_scope.md R8; 41_byte_framer.md R161) -/

namespace Sys2Proof.Machine

/-- The low time of a bit's write slot. -/
def Trace.slotLow (c : Params) (b : Bool) : Nat := if b then c.tW1l else c.tW0l

/-- The bits of bytes in the order in which the framer sends them. -/
def wireBits (bs : List Byte) : List Bool := bs.flatMap fun b => (List.range 8).map b.getLsbD

/-- Settles O25: the low times of the framer's trace. -/
theorem framerLowTimes : Obligations.FramerLowTimes := by
  intro v n s hb hwf h1 h4
  have hlegal := (legal_writeBytes (Params.framerMaxBytes_of_wf hwf) v n).2 (by omega)
  refine ⟨_, _, exec_writeBytes_idle v n s hb h1 hlegal, rfl, ?_⟩
  have h := Trace.lowTimesFrom_bytes s.cfg v n []
  rw [List.append_nil] at h
  exact h.trans (List.append_nil _)

/-- The low times of bytes, one framer call each. -/
theorem Trace.lowTimesFrom_ws (c : Params) (bs : List Byte) :
    lowTimesFrom none (bs.flatMap (w c)) = (wireBits bs).map (slotLow c) := by
  induction bs with
  | nil => rfl
  | cons b bs ih =>
    rw [List.flatMap_cons, lowTimesFrom_w, ih, wireBits, wireBits, List.flatMap_cons, List.map_append, List.map_map]
    rfl

/-- Bytes that hold the values of a function, eight by eight, are sent as these values in order. -/
theorem wireBits_eq_map_range {bs : List Byte} {f : Nat → Bool}
    (h : ∀ j (hj : j < bs.length) i, i < 8 → bs[j].getLsbD i = f (8 * j + i)) :
    wireBits bs = (List.range (8 * bs.length)).map f := by
  induction bs using List.reverseRecOn with
  | nil => rfl
  | append_singleton bs b ih =>
    have hbs : wireBits bs = (List.range (8 * bs.length)).map f := ih fun j hj i hi => by
      rw [← h j (by simp; omega) i hi, List.getElem_append_left hj]
    have hb : (List.range 8).map b.getLsbD = (List.range 8).map fun i => f (8 * bs.length + i) :=
      List.map_congr_left fun i hi => by simpa using h bs.length (by simp) i (List.mem_range.1 hi)
    rw [List.length_append, List.length_singleton, Nat.mul_succ, List.range_add, List.map_append, ← hbs, List.map_map,
      wireBits, List.flatMap_append, List.flatMap_singleton, hb]
    rfl

/-- The bytes of `ROM`, one by one. -/
theorem toList_rom (rom : Vector Byte 8) :
    rom.toList = [rom[0], rom[1], rom[2], rom[3], rom[4], rom[5], rom[6], rom[7]] := by
  refine List.ext_getElem (by simp) fun i hi _ => ?_
  have hi8 : i < 8 := by simpa using hi
  interval_cases i <;> simp

/-- The low times of MATCH_ROM: the reset pulse, then the bits of the opcode and of `ROM` (42_rom_commands.md R182). -/
theorem exec_matchRom_lowTimes {s : State} (hb : s.busy = false) :
    ∃ t evs, exec .matchRom s = .next t ∧ t.trace = s.trace ++ evs ∧
      Trace.lowTimes evs = s.cfg.tRstl :: (wireBits (0x55#8 :: s.rom.toList)).map (Trace.slotLow s.cfg) := by
  refine ⟨_, _, exec_matchRom_endedWith hb, rfl, ?_⟩
  rw [← Trace.lowTimesFrom_ws, toList_rom, ← Trace.lowTimesFrom_rst s.cfg (s.answer 0) (s.answer 1)]
  simp [Trace.lowTimes]

/-- A ROM code that holds the values of a function, eight by eight, is sent as these values in order. -/
theorem wireBits_rom {rom : Vector Byte 8} {f : Nat → Bool}
    (h : ∀ (j : Fin 8) (i : Nat), i < 8 → rom[j].getLsbD i = f (8 * j + i)) :
    wireBits rom.toList = (List.range 64).map f := by
  have hbits := wireBits_eq_map_range (bs := rom.toList) (f := f) fun j hj i hi => by
    simpa using h ⟨j, by simpa using hj⟩ i hi
  rwa [Vector.length_toList] at hbits

/-- Settles O30: `ROM` holds the bits READ_ROM sampled in the order in which MATCH_ROM sends them. -/
theorem matchRomSendsTheBitsRead : Obligations.MatchRomSendsTheBitsRead := by
  intro s t hb hwf ht
  obtain ⟨t', ht', -, hended, -, hbits⟩ := readRomRuns s hb hwf
  cases ht'.symm.trans ht
  obtain ⟨u, evs, hu, htrace, hlow⟩ := exec_matchRom_lowTimes hended.busy
  have hopcode : wireBits (0x55#8 :: t.rom.toList) =
      [true, false, true, false, true, false, true, false] ++ wireBits t.rom.toList := rfl
  refine ⟨u, evs, hu, htrace, ?_⟩
  rw [hlow, hended.cfg, hopcode, wireBits_rom (f := fun k => s.answer (2 + k)) hbits]
  rfl

/-- The low times of a function command's prologue: 1 reset pulse and the 16 bits of two opcodes. -/
theorem Trace.lowTimesFrom_prologue (c : Params) (s1 s2 : Bool) (op : Byte) (rest : List Event) :
    lowTimesFrom none (prologue c s1 s2 op ++ rest) =
      (c.tRstl :: (wireBits [0xCC#8, op]).map (slotLow c)) ++ lowTimesFrom none rest := by
  rw [prologue, List.append_assoc, List.append_assoc, lowTimesFrom_rst, lowTimesFrom_w, lowTimesFrom_w]
  rfl

/-- Settles O37: the payload's bits are those of `th`, `tl` and the configuration byte in order. -/
theorem scratchpadPayloadOnTheLine : Obligations.ScratchpadPayloadOnTheLine := by
  intro th tl res s hb
  have hbits : wireBits [th, tl, configByte s.cfg res] =
      (List.range 24).map (scratchpadPayload s.cfg th tl res).getLsbD := by
    refine wireBits_eq_map_range fun j hj i hi => ?_
    match j, hj with
    | 0, _ => simpa using (getLsbD_payload_th s.cfg th tl res hi).symm
    | 1, _ => exact (getLsbD_payload_tl s.cfg th tl res hi).symm
    | 2, _ => exact (getLsbD_payload_cfg s.cfg th tl res hi).symm
  have hpayload := Trace.lowTimesFrom_bytes s.cfg (scratchpadPayload s.cfg th tl res) 3 []
  rw [List.append_nil] at hpayload
  refine ⟨_, _, _, exec_writeScratchpad_endedWith th tl res hb, rfl, ?_,
    (Trace.lowTimesFrom_prologue s.cfg (s.answer 0) (s.answer 1) 0x4E#8 _).trans (congrArg _ ?_)⟩
  · rfl
  · rw [hpayload, ← wireBits, hbits, List.map_map]
    exact List.append_nil _

end Sys2Proof.Machine

/-! ### Nominal durations (70_reset_and_hazards.md R320) -/

namespace Sys2Proof.Machine.Trace

section
variable (b s1 s2 : Bool) (n : Nat) (f : Nat → Bool)

/-- The waits of the waveforms with the parameter values of 00_scope.md R5. -/
@[simp] theorem totalUs_slot_nominal : totalUs (slot {} b) = 68 := by cases b <;> rfl

@[simp] theorem totalUs_r_nominal : totalUs (r {} b) = 68 := rfl

@[simp] theorem totalUs_rst_nominal : totalUs (rst {} s1 s2) = 1030 := by simp [totalUs, us, rst]

@[simp] theorem totalUs_bytes_nominal (v : BitVec 32) : totalUs (bytes {} v n) = 8 * n * 68 := by
  have hslots := totalUs_flatMap (List.range (8 * n)) (fun k => slot {} (v.getLsbD k)) 68 fun k =>
    totalUs_slot_nominal _
  rw [List.length_range] at hslots
  rw [bytes, totalUs_append, ← List.singleton_append, totalUs_append, hslots]
  exact (Nat.add_zero _).trans (Nat.zero_add _)

@[simp] theorem totalUs_w_nominal (x : Byte) : totalUs (w {} x) = 544 := totalUs_bytes_nominal 1 _

@[simp] theorem totalUs_bit1_nominal : totalUs (bit1 {} b) = 68 := rfl

@[simp] theorem totalUs_bits_nominal : totalUs (bits {} n f) = n * 68 := by
  have hslots := totalUs_flatMap (List.range n) (fun k => r {} (f k)) 68 fun k => totalUs_r_nominal _
  rw [List.length_range] at hslots
  rw [bits, totalUs_append, ← List.singleton_append, totalUs_append, hslots]
  exact (Nat.add_zero _).trans (Nat.zero_add _)

@[simp] theorem totalUs_prologue_nominal (op : Byte) : totalUs (prologue {} s1 s2 op) = 2118 := by
  rw [prologue, totalUs_append, totalUs_append, totalUs_rst_nominal, totalUs_w_nominal, totalUs_w_nominal]

@[simp] theorem totalUs_polls_nominal : totalUs (polls {} n f) = n * 68 := by
  rw [polls, totalUs_flatMap _ _ 68 fun k => totalUs_bit1_nominal _, List.length_range]

@[simp] theorem totalUs_waitMs : totalUs [.waitMs n] = 0 := rfl

@[simp] theorem totalMs_waitMs : totalMs [.waitMs n] = n := Nat.add_zero n

@[simp] theorem totalUs_nil : totalUs [] = 0 := rfl

@[simp] theorem totalMs_nil : totalMs [] = 0 := rfl

/-- No waveform but the timed waits of the function commands holds a long wait. -/
@[simp] theorem totalMs_rst (c : Params) : totalMs (rst c s1 s2) = 0 := rfl

@[simp] theorem totalMs_w (c : Params) (x : Byte) : totalMs (w c x) = 0 := totalMs_bytes c _ 1

@[simp] theorem totalMs_bit1 (c : Params) : totalMs (bit1 c b) = 0 := rfl

@[simp] theorem totalMs_bits (c : Params) : totalMs (bits c n f) = 0 := by
  rw [bits, totalMs_append, ← List.singleton_append, totalMs_append, totalMs_flatMap]
  · rfl
  · exact fun k => rfl

end

end Sys2Proof.Machine.Trace

namespace Sys2Proof.Machine

/-- How long an operation takes by the trace it adds. -/
theorem takes_of_endedWith {i : Instr} {s : State} {k : Nat} {evs : List Event} {s1 s2 b : Bool} {d : DataRegs}
    {us ms : Nat} (h : exec i s = .next (s.endedWith k evs s1 s2 b d)) (hus : Trace.totalUs evs = us)
    (hms : Trace.totalMs evs = ms) :
    ∃ t evs, exec i s = .next t ∧ t.trace = s.trace ++ evs ∧ Trace.totalUs evs = us ∧ Trace.totalMs evs = ms :=
  ⟨_, evs, h, rfl, hus, hms⟩

/-- Settles O51: the waits of each operation's waveforms, summed. -/
theorem nominalDurations : Obligations.NominalDurations := by
  refine ⟨rfl, rfl, fun _ => rfl, Trace.totalUs_w_nominal, Trace.totalUs_rst_nominal,
    Trace.totalUs_prologue_nominal, fun s hb hc => ?_⟩
  intro takes
  refine ⟨?_, ?_, ?_, ?_, ?_, ?_, ?_, fun th tl res => ?_, ?_, fun hp => ?_, fun k f => ?_, ?_⟩
  · exact takes_of_endedWith (exec_reset_endedWith hb) (by simp [hc]) (by simp)
  · exact takes_of_endedWith (exec_skipRom_endedWith hb) (by simp [hc]) (by simp)
  · exact takes_of_endedWith (exec_readRom_endedWith hb (by rw [hc])) (by simp [hc]) (by simp)
  · exact takes_of_endedWith (exec_matchRom_endedWith hb) (by simp [hc]) (by simp)
  · exact takes_of_endedWith (exec_alarmSearch_endedWith hb) (by simp [hc]) (by simp)
  · exact takes_of_endedWith (exec_readPowerSupply_endedWith hb) (by simp [hc]) (by simp [Trace.totalMs_prologue])
  · exact takes_of_endedWith (exec_readScratchpad_endedWith hb (by rw [hc])) (by simp [hc])
      (by simp [Trace.totalMs_prologue])
  · exact takes_of_endedWith (exec_writeScratchpad_endedWith th tl res hb) (by simp [hc])
      (by simp [Trace.totalMs_prologue, Trace.totalMs_bytes])
  · refine takes_of_endedWith (exec_copyScratchpad_endedWith hb) ?_ ?_
    · split <;> simp [hc]
    · split <;> simp [hc, Trace.totalMs_prologue]
  · exact takes_of_endedWith (exec_convertT_endedWith hb hp) (by simp [hc])
      (by simp [hc, Trace.totalMs_prologue, conversionWaitMs])
  · simp
  · exact takes_of_endedWith (exec_init_endedWith hb (by rw [hc]) (by rw [hc])) (by simp [hc])
      (by simp [Trace.totalMs_prologue])

end Sys2Proof.Machine
